-- ==== Sys2Proof/Word.lean ====
section
/-! DEFINITION. The value types of the machine: bytes, words, addresses and register numbers (R8, R9, R72). -/

namespace Sys2Proof

/-- A general register, a timer, a key code or a memory cell: 8 bits, unsigned (R9, R20, R26, R28, R29). -/
abbrev Byte := BitVec 8

/-- An instruction word, PC, I or a stack entry: 16 bits, unsigned (R22, R23, R24, R70). -/
abbrev Word := BitVec 16

/-- The `nnn` field: an unsigned 12-bit byte address (R72). -/
abbrev Addr12 := BitVec 12

/-- The number of a general register, 0 to 15 (R20); the `x` and `y` fields (R72). -/
abbrev RegIdx := Fin 16

/-- The `n` field of `Dxyn` as the number it is: a row count, 0 to 15 (R72). -/
abbrev RowCount := Fin 16

end Sys2Proof
end

