-- ==== Sys2Proof/Syntax.lean ====
section
/-! DEFINITION. The 34 instructions, one constructor per row of spec/opcode_table.json, in the table's order (R74).

Bits the hardware ignores are operands too (`nnn` of SYS, bits 3:0 of families 5 and 9, `y` of SHR and SHL: R80), so
that a word and its instruction determine each other (log 19). -/

namespace Sys2Proof

/-- An instruction, its operands as the fields of R72. -/
inductive Instr where
  /-- `00E0` CLS (R150). -/
  | cls
  /-- `00EE` RET (R102). -/
  | ret
  /-- `0nnn` SYS nnn, other than the two above (R101); `nnn` is ignored. -/
  | sys (nnn : Addr12)
  /-- `1nnn` JP nnn (R104). -/
  | jp (nnn : Addr12)
  /-- `2nnn` CALL nnn (R103). -/
  | call (nnn : Addr12)
  /-- `3xkk` SE Vx, kk (R105). -/
  | seVxKk (x : RegIdx) (kk : Byte)
  /-- `4xkk` SNE Vx, kk (R106). -/
  | sneVxKk (x : RegIdx) (kk : Byte)
  /-- `5xyN` SE Vx, Vy (R107); bits 3:0 are ignored (R78). -/
  | seVxVy (x y : RegIdx) (ignored : BitVec 4)
  /-- `6xkk` LD Vx, kk (R121). -/
  | ldVxKk (x : RegIdx) (kk : Byte)
  /-- `7xkk` ADD Vx, kk (R122). -/
  | addVxKk (x : RegIdx) (kk : Byte)
  /-- `8xy0` LD Vx, Vy (R123). -/
  | ldVxVy (x y : RegIdx)
  /-- `8xy1` OR Vx, Vy (R124). -/
  | orVxVy (x y : RegIdx)
  /-- `8xy2` AND Vx, Vy (R125). -/
  | andVxVy (x y : RegIdx)
  /-- `8xy3` XOR Vx, Vy (R126). -/
  | xorVxVy (x y : RegIdx)
  /-- `8xy4` ADD Vx, Vy (R127). -/
  | addVxVy (x y : RegIdx)
  /-- `8xy5` SUB Vx, Vy (R128). -/
  | sub (x y : RegIdx)
  /-- `8xy6` SHR Vx (R129); `y` is decoded but not used (R75). -/
  | shr (x y : RegIdx)
  /-- `8xy7` SUBN Vx, Vy (R130). -/
  | subn (x y : RegIdx)
  /-- `8xyE` SHL Vx (R131); `y` is decoded but not used (R75). -/
  | shl (x y : RegIdx)
  /-- `9xyN` SNE Vx, Vy (R108); bits 3:0 are ignored (R78). -/
  | sneVxVy (x y : RegIdx) (ignored : BitVec 4)
  /-- `Annn` LD I, nnn (R140). -/
  | ldINnn (nnn : Addr12)
  /-- `Bnnn` JP V0, nnn (R109). -/
  | jpV0 (nnn : Addr12)
  /-- `Cxkk` RND Vx, kk (R132). -/
  | rnd (x : RegIdx) (kk : Byte)
  /-- `Dxyn` DRW Vx, Vy, n (R151). -/
  | drw (x y : RegIdx) (n : RowCount)
  /-- `Ex9E` SKP Vx (R160). -/
  | skp (x : RegIdx)
  /-- `ExA1` SKNP Vx (R161). -/
  | sknp (x : RegIdx)
  /-- `Fx07` LD Vx, DT (R163). -/
  | ldVxDt (x : RegIdx)
  /-- `Fx0A` LD Vx, K (R162). -/
  | ldVxK (x : RegIdx)
  /-- `Fx15` LD DT, Vx (R164). -/
  | ldDtVx (x : RegIdx)
  /-- `Fx18` LD ST, Vx (R165). -/
  | ldStVx (x : RegIdx)
  /-- `Fx1E` ADD I, Vx (R141). -/
  | addIVx (x : RegIdx)
  /-- `Fx33` LD B, Vx (R142). -/
  | ldBVx (x : RegIdx)
  /-- `Fx55` LD [I], Vx (R143). -/
  | ldMemVx (x : RegIdx)
  /-- `Fx65` LD Vx, [I] (R144). -/
  | ldVxMem (x : RegIdx)
deriving DecidableEq, Repr

end Sys2Proof
end

