-- ==== Sys2Proof/Decode.lean ====
section
/-! DEFINITION. Byte order, the fields of a word, the decoder (total on any bytes, rejecting by name), the encoder. -/

namespace Sys2Proof

/-! ## Byte order (R52, R64) -/

/-- The word of two bytes in memory order: the byte at the lower address is the high byte (R52). -/
def wordOfBytes (hi lo : Byte) : Word := hi ++ lo

/-- The byte of a word that lies at the lower address, bits 15:8 (R64). -/
def hiByte (w : Word) : Byte := w.extractLsb' 8 8

/-- The byte of a word that lies at the higher address, bits 7:0 (R64). -/
def loByte (w : Word) : Byte := w.extractLsb' 0 8

/-! ## Fields (R8, R11, R72) -/

/-- The opcode family, bits 15:12. -/
def fam (op : Word) : BitVec 4 := op.extractLsb' 12 4

/-- Bits 11:8 as they stand. -/
def xBits (op : Word) : BitVec 4 := op.extractLsb' 8 4

/-- Bits 7:4 as they stand. -/
def yBits (op : Word) : BitVec 4 := op.extractLsb' 4 4

/-- Bits 3:0 as they stand: the sub-opcode of family 8, the row count of `Dxyn`, ignored in families 5 and 9. -/
def nBits (op : Word) : BitVec 4 := op.extractLsb' 0 4

/-- `x`, a register number. -/
def fieldX (op : Word) : RegIdx := (xBits op).toFin

/-- `y`, a register number. -/
def fieldY (op : Word) : RegIdx := (yBits op).toFin

/-- `n`, a row count. -/
def fieldN (op : Word) : RowCount := (nBits op).toFin

/-- `kk`, bits 7:0: an immediate, and the sub-opcode of families E and F. -/
def fieldKk (op : Word) : Byte := op.extractLsb' 0 8

/-- `nnn`, bits 11:0. -/
def fieldNnn (op : Word) : Addr12 := op.extractLsb' 0 12

/-! ## Decoding -/

/-- Why bytes do not decode. -/
inductive DecodeError where
  /-- Fewer than two bytes: an instruction is exactly two (R70). -/
  | truncated
  /-- The word is one of the illegal words (R79). -/
  | unsupportedOpcode (op : Word)
deriving DecidableEq, Repr

/-- Family 8, selected by bits 3:0 (R75). -/
def decode8 (op : Word) : Except DecodeError Instr :=
  match nBits op with
  | 0x0#4 => .ok (.ldVxVy (fieldX op) (fieldY op))
  | 0x1#4 => .ok (.orVxVy (fieldX op) (fieldY op))
  | 0x2#4 => .ok (.andVxVy (fieldX op) (fieldY op))
  | 0x3#4 => .ok (.xorVxVy (fieldX op) (fieldY op))
  | 0x4#4 => .ok (.addVxVy (fieldX op) (fieldY op))
  | 0x5#4 => .ok (.sub (fieldX op) (fieldY op))
  | 0x6#4 => .ok (.shr (fieldX op) (fieldY op))
  | 0x7#4 => .ok (.subn (fieldX op) (fieldY op))
  | 0xE#4 => .ok (.shl (fieldX op) (fieldY op))
  | _ => .error (.unsupportedOpcode op)

/-- Family E, selected by the whole low byte (R76; log 20). -/
def decodeE (op : Word) : Except DecodeError Instr :=
  match fieldKk op with
  | 0x9E#8 => .ok (.skp (fieldX op))
  | 0xA1#8 => .ok (.sknp (fieldX op))
  | _ => .error (.unsupportedOpcode op)

/-- Family F, selected by the whole low byte (R76; log 20). -/
def decodeF (op : Word) : Except DecodeError Instr :=
  match fieldKk op with
  | 0x07#8 => .ok (.ldVxDt (fieldX op))
  | 0x0A#8 => .ok (.ldVxK (fieldX op))
  | 0x15#8 => .ok (.ldDtVx (fieldX op))
  | 0x18#8 => .ok (.ldStVx (fieldX op))
  | 0x1E#8 => .ok (.addIVx (fieldX op))
  | 0x33#8 => .ok (.ldBVx (fieldX op))
  | 0x55#8 => .ok (.ldMemVx (fieldX op))
  | 0x65#8 => .ok (.ldVxMem (fieldX op))
  | _ => .error (.unsupportedOpcode op)

/-- Family 0: two exact matches, every other word is SYS (R73, R77). -/
def decode0 (op : Word) : Instr :=
  if op = 0x00E0#16 then .cls else if op = 0x00EE#16 then .ret else .sys (fieldNnn op)

/-- The decoder on a word (R73). -/
def decodeWord (op : Word) : Except DecodeError Instr :=
  match fam op with
  | 0x0#4 => .ok (decode0 op)
  | 0x1#4 => .ok (.jp (fieldNnn op))
  | 0x2#4 => .ok (.call (fieldNnn op))
  | 0x3#4 => .ok (.seVxKk (fieldX op) (fieldKk op))
  | 0x4#4 => .ok (.sneVxKk (fieldX op) (fieldKk op))
  | 0x5#4 => .ok (.seVxVy (fieldX op) (fieldY op) (nBits op))
  | 0x6#4 => .ok (.ldVxKk (fieldX op) (fieldKk op))
  | 0x7#4 => .ok (.addVxKk (fieldX op) (fieldKk op))
  | 0x8#4 => decode8 op
  | 0x9#4 => .ok (.sneVxVy (fieldX op) (fieldY op) (nBits op))
  | 0xA#4 => .ok (.ldINnn (fieldNnn op))
  | 0xB#4 => .ok (.jpV0 (fieldNnn op))
  | 0xC#4 => .ok (.rnd (fieldX op) (fieldKk op))
  | 0xD#4 => .ok (.drw (fieldX op) (fieldY op) (fieldN op))
  | 0xE#4 => decodeE op
  | _ => decodeF op

/-- The decoder on bytes in memory order: the instruction and the bytes after it. -/
def decode : List Byte → Except DecodeError (Instr × List Byte)
  | hi :: lo :: rest =>
    match decodeWord (wordOfBytes hi lo) with
    | .ok i => .ok (i, rest)
    | .error e => .error e
  | _ => .error .truncated

/-- The instruction the decoder reads from the `nbits` low bits of `w`, laid out as the hardware stores a word (R52). -/
def decodeTableWord (nbits w : Nat) : Option Instr :=
  let op : Word := BitVec.ofNat 16 (w % 2 ^ nbits)
  match decode [hiByte op, loByte op] with
  | .ok (i, _) => some i
  | .error _ => none

/-! ## Encoding (R71) -/

/-- A register number as its 4-bit field. -/
def regBits (x : Fin 16) : BitVec 4 := BitVec.ofFin x

/-- `{a, b}` of two nibbles (R9). -/
def catNibbles (a b : BitVec 4) : Byte := a ++ b

/-- `{x, kk}`: a nibble above a byte (R9). -/
def catNibbleByte (x : BitVec 4) (kk : Byte) : Addr12 := x ++ kk

/-- Format A: the family above 12 bits. -/
def packA (family : BitVec 4) (nnn : Addr12) : Word := family ++ nnn

/-- Format XK. -/
def packXK (family : BitVec 4) (x : RegIdx) (kk : Byte) : Word := packA family (catNibbleByte (regBits x) kk)

/-- Format XY. -/
def packXY (family : BitVec 4) (x y : RegIdx) (n : BitVec 4) : Word := packXK family x (catNibbles (regBits y) n)

/-- The word of an instruction, from the encoding of each row (R71, R74). -/
def encode : Instr → Word
  | .cls => 0x00E0#16
  | .ret => 0x00EE#16
  | .sys nnn => packA 0x0#4 nnn
  | .jp nnn => packA 0x1#4 nnn
  | .call nnn => packA 0x2#4 nnn
  | .seVxKk x kk => packXK 0x3#4 x kk
  | .sneVxKk x kk => packXK 0x4#4 x kk
  | .seVxVy x y n => packXY 0x5#4 x y n
  | .ldVxKk x kk => packXK 0x6#4 x kk
  | .addVxKk x kk => packXK 0x7#4 x kk
  | .ldVxVy x y => packXY 0x8#4 x y 0x0#4
  | .orVxVy x y => packXY 0x8#4 x y 0x1#4
  | .andVxVy x y => packXY 0x8#4 x y 0x2#4
  | .xorVxVy x y => packXY 0x8#4 x y 0x3#4
  | .addVxVy x y => packXY 0x8#4 x y 0x4#4
  | .sub x y => packXY 0x8#4 x y 0x5#4
  | .shr x y => packXY 0x8#4 x y 0x6#4
  | .subn x y => packXY 0x8#4 x y 0x7#4
  | .shl x y => packXY 0x8#4 x y 0xE#4
  | .sneVxVy x y n => packXY 0x9#4 x y n
  | .ldINnn nnn => packA 0xA#4 nnn
  | .jpV0 nnn => packA 0xB#4 nnn
  | .rnd x kk => packXK 0xC#4 x kk
  | .drw x y n => packXY 0xD#4 x y (regBits n)
  | .skp x => packXK 0xE#4 x 0x9E#8
  | .sknp x => packXK 0xE#4 x 0xA1#8
  | .ldVxDt x => packXK 0xF#4 x 0x07#8
  | .ldVxK x => packXK 0xF#4 x 0x0A#8
  | .ldDtVx x => packXK 0xF#4 x 0x15#8
  | .ldStVx x => packXK 0xF#4 x 0x18#8
  | .addIVx x => packXK 0xF#4 x 0x1E#8
  | .ldBVx x => packXK 0xF#4 x 0x33#8
  | .ldMemVx x => packXK 0xF#4 x 0x55#8
  | .ldVxMem x => packXK 0xF#4 x 0x65#8

/-- The bytes of an instruction in memory order (R52, R64). -/
def encodeBytes (i : Instr) : List Byte := [hiByte (encode i), loByte (encode i)]

/-- A row of the opcode table: the word belongs to it when `op AND mask = value` (R74). -/
structure TableRow where
  mask : Word
  value : Word
deriving DecidableEq, Repr

/-- The mask and match of the row of an instruction, copied from the opcode map (R74). -/
def tableRow : Instr → TableRow
  | .cls => ⟨0xFFFF#16, 0x00E0#16⟩
  | .ret => ⟨0xFFFF#16, 0x00EE#16⟩
  | .sys _ => ⟨0xF000#16, 0x0000#16⟩
  | .jp _ => ⟨0xF000#16, 0x1000#16⟩
  | .call _ => ⟨0xF000#16, 0x2000#16⟩
  | .seVxKk _ _ => ⟨0xF000#16, 0x3000#16⟩
  | .sneVxKk _ _ => ⟨0xF000#16, 0x4000#16⟩
  | .seVxVy _ _ _ => ⟨0xF000#16, 0x5000#16⟩
  | .ldVxKk _ _ => ⟨0xF000#16, 0x6000#16⟩
  | .addVxKk _ _ => ⟨0xF000#16, 0x7000#16⟩
  | .ldVxVy _ _ => ⟨0xF00F#16, 0x8000#16⟩
  | .orVxVy _ _ => ⟨0xF00F#16, 0x8001#16⟩
  | .andVxVy _ _ => ⟨0xF00F#16, 0x8002#16⟩
  | .xorVxVy _ _ => ⟨0xF00F#16, 0x8003#16⟩
  | .addVxVy _ _ => ⟨0xF00F#16, 0x8004#16⟩
  | .sub _ _ => ⟨0xF00F#16, 0x8005#16⟩
  | .shr _ _ => ⟨0xF00F#16, 0x8006#16⟩
  | .subn _ _ => ⟨0xF00F#16, 0x8007#16⟩
  | .shl _ _ => ⟨0xF00F#16, 0x800E#16⟩
  | .sneVxVy _ _ _ => ⟨0xF000#16, 0x9000#16⟩
  | .ldINnn _ => ⟨0xF000#16, 0xA000#16⟩
  | .jpV0 _ => ⟨0xF000#16, 0xB000#16⟩
  | .rnd _ _ => ⟨0xF000#16, 0xC000#16⟩
  | .drw _ _ _ => ⟨0xF000#16, 0xD000#16⟩
  | .skp _ => ⟨0xF0FF#16, 0xE09E#16⟩
  | .sknp _ => ⟨0xF0FF#16, 0xE0A1#16⟩
  | .ldVxDt _ => ⟨0xF0FF#16, 0xF007#16⟩
  | .ldVxK _ => ⟨0xF0FF#16, 0xF00A#16⟩
  | .ldDtVx _ => ⟨0xF0FF#16, 0xF015#16⟩
  | .ldStVx _ => ⟨0xF0FF#16, 0xF018#16⟩
  | .addIVx _ => ⟨0xF0FF#16, 0xF01E#16⟩
  | .ldBVx _ => ⟨0xF0FF#16, 0xF033#16⟩
  | .ldMemVx _ => ⟨0xF0FF#16, 0xF055#16⟩
  | .ldVxMem _ => ⟨0xF0FF#16, 0xF065#16⟩

end Sys2Proof
end

