-- ==== Sys2Proof/Config.lean ====
section
/-! DEFINITION. What is fixed for this machine (R7) and its one free value, the random byte (R133, U4). -/

namespace Sys2Proof.Config

/-- `MEM_SIZE`: addresses 0 to 4095 (R7, R50). -/
abbrev memSize : Nat := 4096

/-- `PROG_BASE`: where the loader puts a program and where PC starts (R7, R34, R56). -/
abbrev progBase : Nat := 512

/-- `MAX_PROGRAM_WORDS`, (4096 - 512) / 2 (R7, R172). -/
abbrev maxProgramWords : Nat := 1792

/-- `FB_W`, columns of the framebuffer (R7, R27). -/
abbrev fbWidth : Nat := 64

/-- `FB_H`, rows of the framebuffer (R7, R27). -/
abbrev fbHeight : Nat := 32

/-- `STACK_DEPTH`, the spec's parameter at the value this hardware takes (R7, D3; log 4). -/
abbrev stackDepth : Nat := 16

/-- The two readings of the words `0x0NNN` other than `00E0` and `00EE` (R77, U1). -/
inductive SysPolicy where
  /-- Execute as a no-operation. -/
  | nop
  /-- Raise `UnsupportedOpcode(op)`. -/
  | fault
deriving DecidableEq, Repr

/-- `SYS_0NNN_POLICY`, the spec's parameter at the value this hardware takes (R7, R77, D18; log 3). -/
def sys0nnnPolicy : SysPolicy := .nop

/-- FREE VALUE: the byte of the `k`-th draw that nothing was supplied for (R133, D13, U4; log 5).
It has no body, so nothing can be proved about which byte it is. -/
opaque freeByte : Nat → Byte

end Sys2Proof.Config
end

