-- ==== Sys2Proof/Machine/State.lean ====
section
/-! DEFINITION. The whole state of the core as plain data (10_state.md), the reasons a step stops, the state after reset. -/

namespace Sys2Proof.Machine

/-- Memory as a sorted list of address and byte pairs; an address not listed reads as `Memory.unlisted` (R29, R50; log 9). -/
abbrev Memory := List Host.Cell

/-- What every byte of memory holds until something is stored there: zero, as reset and load leave it (R34, R56, R64). -/
def Memory.unlisted : Byte := 0

/-- The canonical form from address `lo` upward: addresses strictly rising and inside the 4096 bytes, no entry equal to
what an unlisted address reads as. -/
def Memory.wfFrom : Nat → Memory → Bool
  | _, [] => true
  | lo, (a, v) :: m => decide (lo ≤ a) && decide (a < Config.memSize) && v != Memory.unlisted && Memory.wfFrom (a + 1) m

/-- The canonical form of memory. -/
def Memory.wf (m : Memory) : Bool := Memory.wfFrom 0 m

/-- The 64 × 32 grid of one-bit pixels, row by row (R27, R51; log 25). -/
abbrev Framebuffer := Vector (Vector Bool Config.fbWidth) Config.fbHeight

/-- The framebuffer with every pixel 0. -/
def Framebuffer.blank : Framebuffer := Vector.replicate Config.fbHeight (Vector.replicate Config.fbWidth false)

/-- The four synchronous faults (R180, R181), the two kinds of `OutOfBounds` kept apart as R181 suggests (log 11). A
fault is first taken: the step that raises it answers a next state in which the fault latch holds it (R183). `step`
answers `.fault` with it afterwards, for as long as the latch holds it (R90; log 1). -/
inductive Fault where
  /-- `OutOfBounds` at fetch, by any `step` with pc + 1 > 4095; holds the PC (R57, R184). Safe: the spec's own fault. -/
  | fetchOutOfBounds (addr : Word)
  /-- `OutOfBounds` on data, by `Dxyn`, `Fx33`, `Fx55`, `Fx65`; holds the first address out of range (R58, R185). Safe:
  a block that wraps or clips instead has runs that this model stops (log 16). -/
  | dataOutOfBounds (addr : Word)
  /-- By `00EE` on an empty stack (R102, R186). Safe: the spec's own fault. -/
  | stackUnderflow
  /-- By `2nnn` on a full stack (R103, R188). Safe where the block's stack is deeper, unsafe where it is shallower (log 4). -/
  | stackOverflow
  /-- By decode, for the words of R79; holds the word (R187). Safe: the spec's own fault. -/
  | unsupportedOpcode (code : Word)
deriving DecidableEq, Repr

/-- Refusals. No instruction of this model is refused. -/
inductive Refusal where
  /-- Answered by an arm of `exec` whose instruction has no meaning yet; safe, since nothing is claimed of it. -/
  | notModelled (mnemonic : String)
deriving DecidableEq, Repr

/-- The state of the core (R20 to R30), and last the two fields by which the model holds the random byte input. -/
structure State where
  /-- V0 to VF (R20, R21). -/
  v : Vector Byte 16
  /-- The index register I (R22). -/
  i : Word
  /-- The program counter (R23). -/
  pc : Word
  /-- The call stack, top entry first; SP is its length (R24, R25; log 8). -/
  stack : List Word
  /-- The delay timer (R26). -/
  dt : Byte
  /-- The sound timer (R26). -/
  st : Byte
  /-- The framebuffer (R27). -/
  fb : Framebuffer
  /-- The key latch: no key, or the code of the key pressed (R28). -/
  key : Option Byte
  /-- Memory (R29). -/
  mem : Memory
  /-- The fault latch (R30). -/
  fault : Option Fault
  /-- The model's own: random bytes supplied by the host side for coming draws, oldest first (R133, R176; log 5). -/
  rndSupply : List Byte
  /-- The model's own: how many free random bytes have been drawn (R133; log 5). -/
  rndCount : Nat
deriving DecidableEq, Repr

/-- The state after reset (R34, R171, R200), and the two model fields at the values of log 6. -/
def State.reset : State where
  v := Vector.replicate 16 0
  i := 0
  pc := 0x0200
  stack := []
  dt := 0
  st := 0
  fb := Framebuffer.blank
  key := none
  mem := []
  fault := none
  rndSupply := []
  rndCount := 0

/-- What a meaning and a step answer. -/
abbrev Result := Host.Outcome State Fault Refusal

end Sys2Proof.Machine
end

