-- ==== Sys2Proof/Machine/Ops.lean ====
section
/-! DEFINITION. The shared operations over memory, framebuffer, registers, stack and PC, and taking a fault. -/

namespace Sys2Proof.Machine

/-! ## Memory (R10, R50, R55) -/

/-- `MemRead(addr, 1)`: the byte at an address. Addresses above 4095 do not exist, and every rule tests its range
before it reads (R57, R58; log 10). -/
def Memory.read : Memory → Nat → Byte
  | [], _ => Memory.unlisted
  | (a, v) :: m, addr => if a = addr then v else Memory.read m addr

/-- One cell in front of a memory whose addresses lie above it, left out when it holds what an unlisted address reads as. -/
def Memory.cons (addr : Nat) (v : Byte) (m : Memory) : Memory :=
  if v = Memory.unlisted then m else (addr, v) :: m

/-- `MemWrite(addr, 1, v)`, keeping the canonical form. -/
def Memory.write : Memory → Nat → Byte → Memory
  | [], addr, v => Memory.cons addr v []
  | (a, b) :: m, addr, v =>
    if addr < a then Memory.cons addr v ((a, b) :: m)
    else if addr = a then Memory.cons addr v m
    else (a, b) :: Memory.write m addr v

/-- The `n` bytes from `base` upward, in address order (R55). -/
def Memory.readBlock (m : Memory) (base n : Nat) : List Byte := (List.range n).map fun k => m.read (base + k)

/-- Store bytes from `base` upward, in address order (R55). -/
def Memory.writeBlock : Memory → Nat → List Byte → Memory
  | m, _, [] => m
  | m, base, b :: bs => Memory.writeBlock (m.write base b) (base + 1) bs

/-- Store a word, its high byte at the lower address (R52, R64). -/
def Memory.writeWord (m : Memory) (addr : Nat) (w : Word) : Memory := m.writeBlock addr [hiByte w, loByte w]

/-- Read a word, the byte at the lower address in bits 15:8 (R52). -/
def Memory.readWord (m : Memory) (addr : Nat) : Word := wordOfBytes (m.read addr) (m.read (addr + 1))

/-- The bytes of a list of words as the loader lays them out (R64). -/
def wordsToBytes : List Word → List Byte
  | [] => []
  | w :: ws => hiByte w :: loByte w :: wordsToBytes ws

/-! ## Framebuffer (R10, R27) -/

/-- `FB[r][c]`. -/
def Framebuffer.pixel (fb : Framebuffer) (r : Fin Config.fbHeight) (c : Fin Config.fbWidth) : Bool := (fb[r])[c]

/-- `FB[r][c] <- b`. -/
def Framebuffer.setPixel (fb : Framebuffer) (r : Fin Config.fbHeight) (c : Fin Config.fbWidth) (b : Bool) : Framebuffer :=
  fb.set r ((fb[r]).set c b)

/-! ## Registers, PC, stack -/

/-- `V[x]` (R10, R20). -/
def State.reg (s : State) (x : RegIdx) : Byte := s.v[x]

/-- `V[x] <- b` (R10, R20). -/
def State.setReg (s : State) (x : RegIdx) (b : Byte) : State := { s with v := s.v.set x b }

/-- `I <- w` (R22). -/
def State.setI (s : State) (w : Word) : State := { s with i := w }

/-- `DT <- b` (R26). -/
def State.setDt (s : State) (b : Byte) : State := { s with dt := b }

/-- `ST <- b` (R26). -/
def State.setSt (s : State) (b : Byte) : State := { s with st := b }

/-- Replace the framebuffer's contents (R27). -/
def State.setFb (s : State) (fb : Framebuffer) : State := { s with fb := fb }

/-- Replace the memory's contents (R29). -/
def State.setMem (s : State) (m : Memory) : State := { s with mem := m }

/-- `pc <- target` (R10). -/
def State.jump (s : State) (target : Word) : State := { s with pc := target }

/-- The default advance, `pc <- pc + 2` (R94). -/
def State.advance (s : State) : State := s.jump (s.pc + 2)

/-- The end of every conditional skip: `pc <- pc + 4` when its condition holds, else the default advance (R100). -/
def State.skipIf (s : State) (cond : Bool) : State := if cond then s.jump (s.pc + 4) else s.advance

/-- `SP`, the number of entries held (R24). -/
def State.sp (s : State) : Nat := s.stack.length

/-- `push(v)` (R25). -/
def State.push (s : State) (w : Word) : State := { s with stack := w :: s.stack }

/-- `pop()` (R25): the top entry and the state without it; nothing when the stack is empty. -/
def State.pop (s : State) : Option (Word × State) :=
  match s.stack with
  | [] => none
  | w :: rest => some (w, { s with stack := rest })

/-- `V[i] <- MemRead(base + i, 1)` for the first `n` registers (R144). -/
def loadRegs (m : Memory) (base : Nat) : Nat → Vector Byte 16 → Vector Byte 16
  | 0, v => v
  | n + 1, v => (loadRegs m base n v).setIfInBounds n (m.read (base + n))

/-- The bytes of the first `n` registers in register order (R143). -/
def State.regBlock (s : State) (n : Nat) : List Byte := s.v.toList.take n

/-! ## The random byte (R133, R176; log 5) -/

/-- The byte the next `Cxkk` draws: the oldest supplied byte, or the free value when none was supplied. -/
def State.rndByte (s : State) : Byte :=
  match s.rndSupply with
  | [] => Config.freeByte s.rndCount
  | b :: _ => b

/-- Use up the byte drawn, so that the next draw is a fresh one. -/
def State.takeRnd (s : State) : State :=
  match s.rndSupply with
  | [] => { s with rndCount := s.rndCount + 1 }
  | _ :: rest => { s with rndSupply := rest }

/-! ## Taking a fault, and the way back (R183, R192) -/

/-- The state that fault entry leaves: the latch holds the record, nothing else changes (R183). -/
def State.latch (s : State) (f : Fault) : State := { s with fault := some f }

/-- `raise f`: take the fault. The core has no handler; it halts with PC at the faulting instruction (R183; log 1). -/
def raise (f : Fault) (s : State) : Result := .next (s.latch f)

/-- The way back: nothing in the instruction set, only the host's `reset` and `load` clear the latch (R192). -/
def State.clearFault (s : State) : State := { s with fault := none }

end Sys2Proof.Machine
end

