-- ==== Sys2Proof/Machine/Operands.lean ====
section
/-! DEFINITION. The operand forms: zero-extended immediates, the memory block at I, sprite coordinates, the key test. -/

namespace Sys2Proof.Machine

/-- `zext_16(nnn)` (R9, R72). -/
def zextAddr (nnn : Addr12) : Word := nnn.setWidth 16

/-- `zext_16` of a byte (R9, R141). -/
def zextByte (b : Byte) : Word := b.setWidth 16

/-- Register-indirect through I: the address of the byte at offset `k`, on unbounded integers (R145). -/
def State.blockAddr (s : State) (k : Nat) : Nat := s.i.toNat + k

/-- Whether the `len` bytes at I all lie in memory; no bytes always do (R58). -/
def State.blockFits (s : State) (len : Nat) : Bool := len == 0 || decide (s.i.toNat + len - 1 < Config.memSize)

/-- The first address out of range of a block at I that does not fit: `max(I, 4096)` (R58). -/
def State.firstOutOfRange (s : State) : Word := BitVec.ofNat 16 (max s.i.toNat Config.memSize)

/-- An instruction over the `len` bytes at I: the range is tested once, before any effect (R58; log 16). -/
def withBlock (len : Nat) (s : State) (effect : State → State) : Result :=
  if s.blockFits len then .next (effect s) else raise (.dataOutOfBounds s.firstOutOfRange) s

/-- `V[x] mod 64`, the first column of a sprite (R151). -/
def State.startX (s : State) (x : RegIdx) : Nat := (s.reg x).toNat % Config.fbWidth

/-- `V[y] mod 32`, the first row of a sprite (R151). -/
def State.startY (s : State) (y : RegIdx) : Nat := (s.reg y).toNat % Config.fbHeight

/-- Whether a key is latched and its whole code equals the whole of `b` (R160; log 18). -/
def State.keyIs (s : State) (b : Byte) : Bool := s.key == some b

/-- The hundreds, tens and ones digits of a byte, in storing order (R142). -/
def bcdDigits (b : Byte) : List Byte := [b / 100, (b / 10) % 10, b % 10]

end Sys2Proof.Machine
end

