-- ==== Sys2Proof/Machine/Flags.lean ====
section
/-! DEFINITION. Every flag computation: carry, not-borrow, shifted-out bit, collision; and the write of VF (R21). -/

namespace Sys2Proof.Machine

/-- VF, register 15 (R11, R21). -/
def vf : RegIdx := 15

/-- A flag in all 8 bits: 0x01 or 0x00 (R21). -/
def flagByte (b : Bool) : Byte := if b then 1 else 0

/-- The carry of an addition: the 9-bit sum exceeds 255 (R127). -/
def carry (a b : Byte) : Bool := decide (255 < a.toNat + b.toNat)

/-- The not-borrow of `a - b`: `a >= b`, equality included (R128, R130). -/
def notBorrow (a b : Byte) : Bool := decide (b.toNat ≤ a.toNat)

/-- The bit a right shift by one loses (R129). -/
def shiftedOutLow (a : Byte) : Bool := a.getLsbD 0

/-- The bit a left shift by one loses (R131). -/
def shiftedOutHigh (a : Byte) : Bool := a.getLsbD 7

/-- Whether one pixel collides: it was 1 and becomes 0 (R151). -/
def pixelCollides (old new : Bool) : Bool := old && !new

/-- `V[15] <- 1 if flag else 0` (R21). -/
def State.setFlag (s : State) (flag : Bool) : State := s.setReg vf (flagByte flag)

/-- A result to Vx and a flag to VF. The flag is written last, so it wins when x = 15 (R120; log 15). -/
def State.setRegFlag (s : State) (x : RegIdx) (result : Byte) (flag : Bool) : State := (s.setReg x result).setFlag flag

end Sys2Proof.Machine
end

