-- ==== Sys2Proof/Machine/Alu.lean ====
section
/-! DEFINITION. The arithmetic, logic, move and random instructions (42_arithmetic_logic.md). All reads see the state
before the instruction (R120), all complete with the default advance. -/

namespace Sys2Proof.Machine

/-- `6xkk` LD Vx, kk (R121). -/
def execLdVxKk (x : RegIdx) (kk : Byte) (s : State) : Result := .next (s.setReg x kk).advance

/-- `7xkk` ADD Vx, kk, modulo 256 and without a flag (R122). -/
def execAddVxKk (x : RegIdx) (kk : Byte) (s : State) : Result := .next (s.setReg x (s.reg x + kk)).advance

/-- `8xy0` LD Vx, Vy (R123; VF untouched, log 26). -/
def execLdVxVy (x y : RegIdx) (s : State) : Result := .next (s.setReg x (s.reg y)).advance

/-- `8xy1` OR Vx, Vy (R124; VF untouched, log 26). -/
def execOrVxVy (x y : RegIdx) (s : State) : Result := .next (s.setReg x (s.reg x ||| s.reg y)).advance

/-- `8xy2` AND Vx, Vy (R125; VF untouched, log 26). -/
def execAndVxVy (x y : RegIdx) (s : State) : Result := .next (s.setReg x (s.reg x &&& s.reg y)).advance

/-- `8xy3` XOR Vx, Vy (R126; VF untouched, log 26). -/
def execXorVxVy (x y : RegIdx) (s : State) : Result := .next (s.setReg x (s.reg x ^^^ s.reg y)).advance

/-- `8xy4` ADD Vx, Vy with carry (R127). -/
def execAddVxVy (x y : RegIdx) (s : State) : Result :=
  .next (s.setRegFlag x (s.reg x + s.reg y) (carry (s.reg x) (s.reg y))).advance

/-- `8xy5` SUB Vx, Vy with not-borrow (R128). -/
def execSub (x y : RegIdx) (s : State) : Result :=
  .next (s.setRegFlag x (s.reg x - s.reg y) (notBorrow (s.reg x) (s.reg y))).advance

/-- `8xy6` SHR Vx, in place (R129). -/
def execShr (x : RegIdx) (s : State) : Result :=
  .next (s.setRegFlag x (s.reg x >>> 1) (shiftedOutLow (s.reg x))).advance

/-- `8xy7` SUBN Vx, Vy with not-borrow (R130). -/
def execSubn (x y : RegIdx) (s : State) : Result :=
  .next (s.setRegFlag x (s.reg y - s.reg x) (notBorrow (s.reg y) (s.reg x))).advance

/-- `8xyE` SHL Vx, in place (R131). -/
def execShl (x : RegIdx) (s : State) : Result :=
  .next (s.setRegFlag x (s.reg x <<< 1) (shiftedOutHigh (s.reg x))).advance

/-- `Cxkk` RND Vx, kk (R132): the byte drawn is an input (R133; log 5). -/
def execRnd (x : RegIdx) (kk : Byte) (s : State) : Result :=
  .next (s.takeRnd.setReg x (s.rndByte &&& kk)).advance

end Sys2Proof.Machine
end

