-- ==== Sys2Proof/Machine/ControlFlow.lean ====
section
/-! DEFINITION. The control-flow instructions (41_control_flow.md): SYS, RET, CALL, JP, SE, SNE, JP V0. -/

namespace Sys2Proof.Machine

/-- `SYS nnn` under a policy (R77, R101, U1): a no-operation, or the fault of an unsupported word. -/
def sysUnder (policy : Config.SysPolicy) (nnn : Addr12) (s : State) : Result :=
  match policy with
  | .nop => .next s.advance
  | .fault => raise (.unsupportedOpcode (zextAddr nnn)) s

/-- `0nnn` SYS (R101), under the policy of this hardware (D18; log 3). -/
def execSys (nnn : Addr12) (s : State) : Result := sysUnder Config.sys0nnnPolicy nnn s

/-- `00EE` RET (R102). -/
def execRet (s : State) : Result :=
  match s.pop with
  | none => raise .stackUnderflow s
  | some (target, popped) => .next (popped.jump target)

/-- `2nnn` CALL (R103); the entry pushed is the address after the call (C3; log 27). -/
def execCall (nnn : Addr12) (s : State) : Result :=
  if Config.stackDepth ≤ s.sp then raise .stackOverflow s
  else .next ((s.push (s.pc + 2)).jump (zextAddr nnn))

/-- `1nnn` JP (R104). -/
def execJp (nnn : Addr12) (s : State) : Result := .next (s.jump (zextAddr nnn))

/-- `3xkk` SE Vx, kk (R105). -/
def execSeVxKk (x : RegIdx) (kk : Byte) (s : State) : Result := .next (s.skipIf (s.reg x == kk))

/-- `4xkk` SNE Vx, kk (R106). -/
def execSneVxKk (x : RegIdx) (kk : Byte) (s : State) : Result := .next (s.skipIf (s.reg x != kk))

/-- `5xyN` SE Vx, Vy (R107), bits 3:0 ignored (R78). -/
def execSeVxVy (x y : RegIdx) (s : State) : Result := .next (s.skipIf (s.reg x == s.reg y))

/-- `9xyN` SNE Vx, Vy (R108), bits 3:0 ignored (R78; log 19). -/
def execSneVxVy (x y : RegIdx) (s : State) : Result := .next (s.skipIf (s.reg x != s.reg y))

/-- `Bnnn` JP V0, nnn (R109). -/
def execJpV0 (nnn : Addr12) (s : State) : Result := .next (s.jump (zextByte (s.reg 0) + zextAddr nnn))

end Sys2Proof.Machine
end

