-- ==== Sys2Proof/Machine/Display.lean ====
section
/-! DEFINITION. The display instructions (44_display.md): clear, and the sprite blit with wrap-around and collision. -/

namespace Sys2Proof.Machine

/-- `00E0` CLS (R150). -/
def execCls (s : State) : Result := .next (s.setFb Framebuffer.blank).advance

/-- One pixel of the blit: XOR a sprite bit in and remember a collision (the inner loop's body in R151). -/
def plot (r : Fin Config.fbHeight) (c : Fin Config.fbWidth) (bit : Bool) (acc : Framebuffer × Bool) : Framebuffer × Bool :=
  let old := acc.1.pixel r c
  let new := old ^^ bit
  (acc.1.setPixel r c new, acc.2 || pixelCollides old new)

/-- The bit of a sprite byte at offset `b` from its left end: most significant bit first (R8, R151). -/
def spriteBit (row : Byte) (b : Nat) : Bool := row.getLsbD (7 - b)

/-- Eight pixels of one sprite row from column `startX`, wrapping modulo 64 (R151). -/
def drawRow (startX : Nat) (r : Fin Config.fbHeight) (row : Byte) (acc : Framebuffer × Bool) : Framebuffer × Bool :=
  (List.range 8).foldl (fun acc b => plot r (Fin.ofNat Config.fbWidth (startX + b)) (spriteBit row b) acc) acc

/-- The rows of a sprite from row `startY + r` downward, wrapping modulo 32 (R151). -/
def drawRows (startX startY : Nat) : Nat → List Byte → Framebuffer × Bool → Framebuffer × Bool
  | _, [], acc => acc
  | r, row :: rows, acc =>
    drawRows startX startY (r + 1) rows (drawRow startX (Fin.ofNat Config.fbHeight (startY + r)) row acc)

/-- `Dxyn` DRW Vx, Vy, n (R151). The coordinates are read before VF is written (R120; log 15). -/
def execDrw (x y : RegIdx) (n : RowCount) (s : State) : Result :=
  withBlock n.val s fun s =>
    let drawn := drawRows (s.startX x) (s.startY y) 0 (s.mem.readBlock (s.blockAddr 0) n.val) (s.fb, false)
    ((s.setFb drawn.1).setFlag drawn.2).advance

end Sys2Proof.Machine
end

