-- ==== Sys2Proof/Machine/InputTimers.lean ====
section
/-! DEFINITION. The key-input and timer instructions (45_input_timers.md). None changes the key latch (R28). -/

namespace Sys2Proof.Machine

/-- `Ex9E` SKP Vx (R160). -/
def execSkp (x : RegIdx) (s : State) : Result := .next (s.skipIf (s.keyIs (s.reg x)))

/-- `ExA1` SKNP Vx, the complement of SKP: it skips when no key is latched (R161; log 18). -/
def execSknp (x : RegIdx) (s : State) : Result := .next (s.skipIf (!s.keyIs (s.reg x)))

/-- `Fx0A` LD Vx, K (R162). With no key latched the step waits: it changes nothing, and the next step tests again (log 17). -/
def execLdVxK (x : RegIdx) (s : State) : Result :=
  match s.key with
  | none => .next s
  | some code => .next (s.setReg x code).advance

/-- `Fx07` LD Vx, DT (R163). -/
def execLdVxDt (x : RegIdx) (s : State) : Result := .next (s.setReg x s.dt).advance

/-- `Fx15` LD DT, Vx (R164). -/
def execLdDtVx (x : RegIdx) (s : State) : Result := .next (s.setDt (s.reg x)).advance

/-- `Fx18` LD ST, Vx (R165). -/
def execLdStVx (x : RegIdx) (s : State) : Result := .next (s.setSt (s.reg x)).advance

end Sys2Proof.Machine
end

