-- ==== Sys2Proof/Machine/MemoryIndex.lean ====
section
/-! DEFINITION. The index-register and memory instructions (43_memory_index.md). None but LD I and ADD I changes I. -/

namespace Sys2Proof.Machine

/-- `Annn` LD I, nnn (R140). -/
def execLdINnn (nnn : Addr12) (s : State) : Result := .next (s.setI (zextAddr nnn)).advance

/-- `Fx1E` ADD I, Vx, modulo 65536 and without a flag (R141; log 21). -/
def execAddIVx (x : RegIdx) (s : State) : Result := .next (s.setI (s.i + zextByte (s.reg x))).advance

/-- `Fx33` LD B, Vx: three digits at I, I + 1, I + 2 (R142). -/
def execLdBVx (x : RegIdx) (s : State) : Result :=
  withBlock 3 s fun s => (s.setMem (s.mem.writeBlock (s.blockAddr 0) (bcdDigits (s.reg x)))).advance

/-- `Fx55` LD [I], Vx: V0 to Vx, `x` included (R143). -/
def execLdMemVx (x : RegIdx) (s : State) : Result :=
  withBlock (x.val + 1) s fun s => (s.setMem (s.mem.writeBlock (s.blockAddr 0) (s.regBlock (x.val + 1)))).advance

/-- `Fx65` LD Vx, [I]: V0 to Vx, `x` included (R144). -/
def execLdVxMem (x : RegIdx) (s : State) : Result :=
  withBlock (x.val + 1) s fun s => State.advance { s with v := loadRegs s.mem (s.blockAddr 0) (x.val + 1) s.v }

end Sys2Proof.Machine
end

