-- ==== Sys2Proof/Machine/Fetch.lean ====
section
/-! DEFINITION. Instruction fetch (R91), and placing one word where the next fetch reads it. -/

namespace Sys2Proof.Machine

/-- The fetch range check on unbounded integers: `pc + 1 <= 4095` (R57, R91). -/
def State.canFetch (s : State) : Bool := decide (s.pc.toNat + 1 < Config.memSize)

/-- The word at PC, big-endian, at any parity; nothing when it does not lie in memory (R52, R54, R91). -/
def State.fetch (s : State) : Option Word := if s.canFetch then some (s.mem.readWord s.pc.toNat) else none

/-- The state ready to fetch: no fault latched, and PC at an address a word can be fetched from, moved to the entry
point 512 only when it is not (R57, R90; log 14). -/
def State.readyToFetch (s : State) : State :=
  let s := s.clearFault
  if s.canFetch then s else s.jump (BitVec.ofNat 16 Config.progBase)

/-- The state with a word stored at PC (R64). -/
def State.placeWord (s : State) (w : Word) : State := s.setMem (s.mem.writeWord s.pc.toNat w)

end Sys2Proof.Machine
end

