-- ==== Sys2Proof/Machine/Step.lean ====
section
/-! DEFINITION. The step (R96): latched fault, fetch, decode, execute, in the order of R191. -/

namespace Sys2Proof.Machine

/-- One step (R96). A fault is taken in a next state (R183); a core whose latch is set is halted, and its step answers
the latched fault and changes nothing (R90; log 1). The advance of PC is part of each instruction's meaning (R94). -/
def step (s : State) : Host.Outcome State Fault Refusal :=
  match s.fault with
  | some f => .fault f
  | none =>
    match s.fetch with
    | none => raise (.fetchOutOfBounds s.pc) s
    | some op =>
      match decodeWord op with
      | .error _ => raise (.unsupportedOpcode op) s
      | .ok i => exec i s

/-- `s` with the `nbits` low bits of `w` stored where the next step fetches (log 14). -/
def State.withFetchWord (s : State) (nbits w : Nat) : State :=
  s.readyToFetch.placeWord (BitVec.ofNat 16 (w % 2 ^ nbits))

end Sys2Proof.Machine
end

