-- ==== Sys2Proof/Machine/HostOps.lean ====
section
/-! DEFINITION. The host's operations on the core (47_host_operations.md), the status of a step, and their interleaving. -/

namespace Sys2Proof.Machine

/-! ## The result of a step (R6, R95, R178) -/

/-- What a `step` returns to the host (R95). -/
inductive Status where
  /-- An instruction was executed. -/
  | continue_
  /-- The instruction at PC is `Fx0A` and no key is latched. -/
  | waitingForKey
  /-- A fault was raised by this step, or was latched before it. -/
  | fault (f : Fault)
deriving DecidableEq, Repr

/-- Whether the instruction a step would execute is `Fx0A` (R95, R162). -/
def State.atKeyWait (s : State) : Bool :=
  match s.fetch with
  | none => false
  | some op =>
    match decodeWord op with
    | .ok (.ldVxK _) => true
    | _ => false

/-- The state a step leaves: a halted core stays as it is (R90). -/
def afterStep (s : State) : State :=
  match step s with
  | .next t => t
  | .fault _ => s
  | .refused _ => s

/-- The status a step returns (R95; log 2): the fault latched after it, else whether it waits. -/
def stepStatus (s : State) : Status :=
  match (afterStep s).fault with
  | some f => .fault f
  | none => if s.atKeyWait && s.key.isNone then .waitingForKey else .continue_

/-- `status[1:0]` (R178). -/
def Status.code : Status → BitVec 2
  | .continue_ => 0
  | .waitingForKey => 1
  | .fault _ => 2

/-- `fault_code[2:0]` of a fault (R181; log 11). -/
def Fault.code : Fault → BitVec 3
  | .fetchOutOfBounds _ => 1
  | .dataOutOfBounds _ => 1
  | .stackUnderflow => 2
  | .stackOverflow => 3
  | .unsupportedOpcode _ => 4

/-- `fault_info[15:0]` of a fault (R181; log 11). -/
def Fault.info : Fault → Word
  | .fetchOutOfBounds addr => addr
  | .dataOutOfBounds addr => addr
  | .stackUnderflow => 0
  | .stackOverflow => 0
  | .unsupportedOpcode op => op

/-- The code of a status at the port, 0 when it is no fault (R178, R181). -/
def Status.faultCode : Status → BitVec 3
  | .fault f => f.code
  | _ => 0

/-- The info of a status at the port, 0 when it is no fault (R178, R181). -/
def Status.faultInfo : Status → Word
  | .fault f => f.info
  | _ => 0

/-! ## The host's operations -/

/-- `reset` (R171): every piece of the core's state as R34 lists it. The random bytes are not core state (R32), so the
two fields that hold them stay (log 6). -/
def hostReset (s : State) : State := { State.reset with rndSupply := s.rndSupply, rndCount := s.rndCount }

/-- What `load` answers (R172, R178). -/
inductive LoadResult where
  /-- The program is loaded. -/
  | ok
  /-- The program does not fit; nothing changed (R189). -/
  | programTooLarge
deriving DecidableEq, Repr

/-- The memory a load leaves: the program at 512, every other byte 0 (R64). -/
def programImage (words : List Word) : Memory := Memory.writeBlock [] Config.progBase (wordsToBytes words)

/-- The state a load that fits leaves (R172): memory, PC and the fault latch written, the rest kept (R35; log 22). -/
def loaded (words : List Word) (s : State) : State :=
  ((s.setMem (programImage words)).jump (BitVec.ofNat 16 Config.progBase)).clearFault

/-- `load(words)` (R172). -/
def hostLoad (words : List Word) (s : State) : State × LoadResult :=
  if Config.maxProgramWords < words.length then (s, .programTooLarge) else (loaded words s, .ok)

/-- One timer's tick: down by 1, held at 0 (R173). -/
def tickDown (t : Byte) : Byte := if t = 0 then 0 else t - 1

/-- `tick_timers` (R173), accepted in every run state. -/
def tickTimers (s : State) : State := (s.setDt (tickDown s.dt)).setSt (tickDown s.st)

/-- `set_key(k)` (R174). -/
def setKey (k : Option Byte) (s : State) : State := { s with key := k }

/-- The host side supplies one more random byte (R176; log 5). -/
def supplyRandom (b : Byte) (s : State) : State := { s with rndSupply := s.rndSupply ++ [b] }

/-- The framebuffer read port: the pixel at a row and a column (R175, R178). -/
def fbRead (r : BitVec 5) (c : BitVec 6) (s : State) : Bool := s.fb.pixel r.toFin c.toFin

/-- The pixel with flat index `row * 64 + column` (R175, D23; log 25). -/
def fbFlat (s : State) (k : Fin 2048) : Bool :=
  s.fb.pixel (Fin.ofNat Config.fbHeight (k.val / Config.fbWidth)) (Fin.ofNat Config.fbWidth (k.val % Config.fbWidth))

/-! ## Interleaving (R5, R173, R177, D14; log 23) -/

/-- The operations there are: each is one atomic transition, and the host has no others (R177). -/
inductive Event where
  | step
  | reset
  | load (words : List Word)
  | tickTimers
  | setKey (k : Option Byte)
  | supplyRandom (b : Byte)
  | readFramebuffer
deriving DecidableEq, Repr

/-- What an operation answers to the host. -/
inductive Reply where
  /-- Nothing to report. -/
  | done
  /-- The status of a `step` (R95). -/
  | status (r : Status)
  /-- The result of a `load` (R172). -/
  | load (r : LoadResult)
  /-- A snapshot of the framebuffer (R175). -/
  | pixels (fb : Framebuffer)
deriving DecidableEq, Repr

/-- One operation: the state after it and its answer. -/
def perform (e : Event) (s : State) : State × Reply :=
  match e with
  | .step => (afterStep s, .status (stepStatus s))
  | .reset => (hostReset s, .done)
  | .load words => ((hostLoad words s).1, .load (hostLoad words s).2)
  | .tickTimers => (Sys2Proof.Machine.tickTimers s, .done)
  | .setKey k => (Sys2Proof.Machine.setKey k s, .done)
  | .supplyRandom b => (Sys2Proof.Machine.supplyRandom b s, .done)
  | .readFramebuffer => (s, .pixels s.fb)

/-- A run: any operations in any order, the first of the list first. -/
def run : List Event → State → State
  | [], s => s
  | e :: es, s => run es (perform e s).1

end Sys2Proof.Machine
end

