-- ==== Sys2Proof/Safety.lean ====
section
/-! DEFINITION. The terms the claims use: frames, the machine invariant, halted, waiting and idle states, sprite cover. -/

namespace Sys2Proof.Machine

/-! ## Frames -/

/-- The parts of the state beside V and PC. -/
inductive Part where
  | index | stack | delay | sound | screen | memory | key | fault | random
deriving DecidableEq, Repr

/-- A part is the same in two states: every byte of memory by reading it, every pixel by reading it. -/
def Part.Same (p : Part) (s t : State) : Prop :=
  match p with
  | .index => t.i = s.i
  | .stack => t.stack = s.stack
  | .delay => t.dt = s.dt
  | .sound => t.st = s.st
  | .screen => ∀ r c, Framebuffer.pixel t.fb r c = Framebuffer.pixel s.fb r c
  | .memory => ∀ a, Memory.read t.mem a = Memory.read s.mem a
  | .key => t.key = s.key
  | .fault => t.fault = s.fault
  | .random => t.rndSupply = s.rndSupply ∧ t.rndCount = s.rndCount

/-- From `s` to `t` only the named registers, the named parts, and PC may have changed. -/
def Frame (regs : RegIdx → Prop) (parts : Part → Prop) (s t : State) : Prop :=
  (∀ r, ¬ regs r → t.reg r = s.reg r) ∧ ∀ p, ¬ parts p → p.Same s t

/-- No register. -/
def noReg : RegIdx → Prop := fun _ => False

/-- No part. -/
def noPart : Part → Prop := fun _ => False

/-- Everything but PC is the same. -/
def OnlyPc (s t : State) : Prop := Frame noReg noPart s t

/-! ## The invariant of the machine -/

/-- What every reachable state meets: memory is in canonical form inside the 4096 bytes, the stack holds at most 16
entries (R24) and each is a return address `pc + 2` with `pc <= 4094`, and PC is at most 4350, the largest value any rule
can write (R23). -/
structure Inv (s : State) : Prop where
  memory : Memory.wf s.mem = true
  depth : s.stack.length ≤ 16
  returns : ∀ w ∈ s.stack, 2 ≤ w.toNat ∧ w.toNat ≤ 4096
  pcBound : s.pc.toNat ≤ 4350

/-! ## Run states -/

/-- A fault is latched; the core is halted (R90). -/
def Halted (s : State) : Prop := s.fault ≠ none

/-- The next step executes `i`: no fault is latched and the word at PC lies in memory and decodes to `i` (R90 to R92). -/
structure Executes (s : State) (i : Instr) : Prop where
  running : s.fault = none
  inMemory : s.pc.toNat + 1 ≤ 4095
  decodes : decode [Memory.read s.mem s.pc.toNat, Memory.read s.mem (s.pc.toNat + 1)] = .ok (i, [])

/-- The model's end-of-run predicate, a jump to itself at PC (R206, D16; log 28). -/
def IdleLoop (s : State) : Prop := ∃ nnn : Addr12, Executes s (.jp nnn) ∧ s.pc.toNat = nnn.toNat

/-! ## What an instruction may write -/

/-- The general registers an instruction may write, VF as a flag included (R20, R21, R33). -/
def MayWriteReg (i : Instr) (r : RegIdx) : Prop :=
  match i with
  | .cls | .ret | .sys _ | .jp _ | .call _ => False
  | .seVxKk _ _ | .sneVxKk _ _ | .seVxVy _ _ _ | .sneVxVy _ _ _ => False
  | .ldVxKk x _ | .addVxKk x _ | .rnd x _ => r = x
  | .ldVxVy x _ | .orVxVy x _ | .andVxVy x _ | .xorVxVy x _ => r = x
  | .addVxVy x _ | .sub x _ | .shr x _ | .subn x _ | .shl x _ => r = x ∨ r = 15
  | .ldINnn _ | .jpV0 _ => False
  | .drw _ _ _ => r = 15
  | .skp _ | .sknp _ => False
  | .ldVxDt x | .ldVxK x => r = x
  | .ldDtVx _ | .ldStVx _ | .addIVx _ | .ldBVx _ | .ldMemVx _ => False
  | .ldVxMem x => r ≤ x

/-- The six conditional skips (R100). -/
def IsSkip (i : Instr) : Prop :=
  (∃ x kk, i = .seVxKk x kk) ∨ (∃ x kk, i = .sneVxKk x kk) ∨ (∃ x y n, i = .seVxVy x y n) ∨
  (∃ x y n, i = .sneVxVy x y n) ∨ (∃ x, i = .skp x) ∨ (∃ x, i = .sknp x)

/-! ## The parts of a sprite (R151) -/

/-- The sprite of `Dxyn` has a 1 bit over the pixel in row `r`, column `c`: byte `k` of its `n` bytes, bit `b` from the
left, at row `(Vy mod 32 + k) mod 32`, column `(Vx mod 64 + b) mod 64` (R151). -/
def SpriteOver (s : State) (x y : RegIdx) (n : RowCount) (r c : Nat) : Prop :=
  ∃ k b : Nat, k < n.val ∧ b < 8 ∧
    ((s.reg y).toNat % 32 + k) % 32 = r ∧ ((s.reg x).toNat % 64 + b) % 64 = c ∧
    (Memory.read s.mem (s.i.toNat + k)).getLsbD (7 - b) = true

/-! ## The words that do not decode -/

/-- The illegal words, by their fields (R79). -/
def IllegalWord (op : Word) : Prop :=
  (op.toNat / 4096 = 0x8 ∧ op.toNat % 16 ∈ [0x8, 0x9, 0xA, 0xB, 0xC, 0xD, 0xF]) ∨
  (op.toNat / 4096 = 0xE ∧ op.toNat % 256 ∉ [0x9E, 0xA1]) ∨
  (op.toNat / 4096 = 0xF ∧ op.toNat % 256 ∉ [0x07, 0x0A, 0x15, 0x18, 0x1E, 0x33, 0x55, 0x65])

end Sys2Proof.Machine
end

