-- ==== Sys2Proof/Certificates/Slice0/Obligations.lean ====
section
/-! DEFINITION. The statements for the provers. Each docstring names the rule of spec/ it formalises; where a clause
rests on a decision of the spec (D<n>) or a choice of the model, it says so and names the log entry. -/

open Sys2Proof Sys2Proof.Machine

/-! ## The step -/

/-- A step runs the instruction at PC (R92, R93). With no fault latched and the two bytes at PC in memory and decoding
to `i`, `step` is `exec i` at the same state: fetch and decode change nothing, and the advance of PC is part of `exec`.
The latch it tests is the spec's decision D5 (log 1). -/
def Obligations.StepRunsDecodedInstruction : Prop :=
  ∀ (s : State) (i : Instr), Executes s i → step s = exec i s

/-- The bytes of any well-formed instruction, stored high byte first where PC points, run as that instruction. That the
words 0NNN and 9xyN are legal is the spec's decisions D18 and D9 (logs 3 and 19); ignored bits as operands are the
model's choice (log 19). -/
def Obligations.StoredEncodingRuns : Prop :=
  ∀ (s : State) (i : Instr), WellFormed i → s.fault = none → s.pc.toNat + 1 ≤ 4095 →
    (Memory.read s.mem s.pc.toNat).toNat = (encode i).toNat / 256 →
    (Memory.read s.mem (s.pc.toNat + 1)).toNat = (encode i).toNat % 256 →
    step s = exec i s

/-- The checks of a step in their order (R191, from R90, R91, R92): a latched fault, then the fetch range, then decode.
A halted core answers the latched fault; the other two faults are taken: latched, nothing else changed (D5, D24; logs 1
and 11). That the fetch address does not wrap is the spec's decision D22 (log 21). Which words are illegal rests on the
spec's decision D19 (log 20). -/
def Obligations.StepChecksInOrder : Prop :=
  ∀ s : State,
    (∀ f, s.fault = some f → step s = .fault f) ∧
    (s.fault = none → 4095 < s.pc.toNat + 1 → step s = .next { s with fault := some (.fetchOutOfBounds s.pc) }) ∧
    (∀ op : Word, s.fault = none → s.pc.toNat + 1 ≤ 4095 →
      op.toNat = 256 * (Memory.read s.mem s.pc.toNat).toNat + (Memory.read s.mem (s.pc.toNat + 1)).toNat →
      IllegalWord op → step s = .next { s with fault := some (.unsupportedOpcode op) })

/-- Fetch is big-endian (R52) at every address from 0 to 4094, odd or even. -/
def Obligations.FetchIsBigEndian : Prop :=
  ∀ s : State, s.pc.toNat + 1 ≤ 4095 →
    ∃ op : Word, s.fetch = some op ∧
      op.toNat = 256 * (Memory.read s.mem s.pc.toNat).toNat + (Memory.read s.mem (s.pc.toNat + 1)).toNat

/-- What a step returns (R95): `Continue` when it executed an instruction, `WaitingForKey` when it found `Fx0A` and no
key latched, the fault when it faulted or was halted, and that fault is latched after it; there is no other result (the latch
is the spec's decision D5, the wait without a state of its own D12, computing the status is the model's choice; logs 1, 17
and 2). -/
def Obligations.StepStatusIsOneOfThree : Prop :=
  ∀ s : State,
    (stepStatus s = .waitingForKey ↔ ∃ x, Executes s (.ldVxK x) ∧ s.key = none) ∧
    (∀ f, stepStatus s = .fault f ↔ (afterStep s).fault = some f) ∧
    (stepStatus s = .continue_ ↔
      ∃ i t, Executes s i ∧ ¬ (∃ x, i = .ldVxK x ∧ s.key = none) ∧ exec i s = .next t ∧ afterStep s = t ∧ t.fault = none)

/-- Faults are precise (R183): a step that takes a fault changes the latch and nothing else (D5, D6; logs 1 and 16). -/
def Obligations.FaultsArePrecise : Prop :=
  ∀ (s t : State) (f : Fault), s.fault = none → step s = .next t → t.fault = some f → t = { s with fault := some f }

/-- Which instruction can take which fault (R182), and only when. The latch, the stack limit and the data fault are the
spec's decisions D5, D3 and D6 (logs 1, 4 and 16). That 0nnn takes no fault is the spec's decision D18 (log 3), that
addresses do not wrap its decision D22 (log 21). -/
def Obligations.OnlyTheseInstructionsFault : Prop :=
  ∀ (i : Instr) (s t : State), s.fault = none → exec i s = .next t →
    t.fault = none ∨
    (i = .ret ∧ s.stack = [] ∧ t.fault = some .stackUnderflow) ∨
    (∃ nnn, i = .call nnn ∧ 16 ≤ s.stack.length ∧ t.fault = some .stackOverflow) ∨
    (∃ x y n, i = .drw x y n ∧ 0 < n.val ∧ 4095 < s.i.toNat + n.val - 1 ∧ ∃ a, t.fault = some (.dataOutOfBounds a)) ∨
    (∃ x, i = .ldBVx x ∧ 4095 < s.i.toNat + 2 ∧ ∃ a, t.fault = some (.dataOutOfBounds a)) ∨
    (∃ x, i = .ldMemVx x ∧ 4095 < s.i.toNat + x.val ∧ ∃ a, t.fault = some (.dataOutOfBounds a)) ∨
    (∃ x, i = .ldVxMem x ∧ 4095 < s.i.toNat + x.val ∧ ∃ a, t.fault = some (.dataOutOfBounds a))

/-- The halt lasts (R30, R90, R192; D5): until a `reset` or a `load`, whatever the host does, the latched fault stays,
every step returns it, and no step changes a register, I, PC, the stack, the framebuffer or memory. That the host's
operations are accepted in a halted core is the spec's decision D14 (log 23). -/
def Obligations.HaltLastsUntilResetOrLoad : Prop :=
  ∀ (es : List Event) (s : State) (f : Fault), s.fault = some f →
    (∀ e ∈ es, e ≠ .reset ∧ ∀ ws, e ≠ .load ws) →
    (run es s).fault = some f ∧ stepStatus (run es s) = .fault f ∧ (run es s).v = s.v ∧ (run es s).i = s.i ∧
      (run es s).pc = s.pc ∧ (run es s).stack = s.stack ∧ (run es s).fb = s.fb ∧ (run es s).mem = s.mem

/-- The random byte reaches the machine through `Cxkk` alone (R97, R133): any other instruction does the same whatever
bytes are supplied. The two fields are the model's own (log 5). That the byte is an input from outside is the spec's
decision D13. -/
def Obligations.RandomOnlyThroughRnd : Prop :=
  ∀ (i : Instr) (s : State) (q : List Byte) (n : Nat), (∀ x kk, i ≠ .rnd x kk) →
    ∃ t, exec i s = .next t ∧
      exec i { s with rndSupply := q, rndCount := n } = .next { t with rndSupply := q, rndCount := n }

/-- The write columns of the access matrix for the state beside V and PC (R33): who may change what in one instruction.
That an effect a row does not mention does not happen is the spec's decision D21 (log 26); that `Fx0A` does not clear the
key latch is its decision D12 (log 17). -/
def Obligations.OnlyNamedPartsChange : Prop :=
  ∀ (i : Instr) (s t : State), exec i s = .next t →
    (t.i ≠ s.i → (∃ nnn, i = .ldINnn nnn) ∨ ∃ x, i = .addIVx x) ∧
    (t.stack ≠ s.stack → i = .ret ∨ ∃ nnn, i = .call nnn) ∧
    (t.dt ≠ s.dt → ∃ x, i = .ldDtVx x) ∧
    (t.st ≠ s.st → ∃ x, i = .ldStVx x) ∧
    ((∃ r c, Framebuffer.pixel t.fb r c ≠ Framebuffer.pixel s.fb r c) → i = .cls ∨ ∃ x y n, i = .drw x y n) ∧
    t.key = s.key ∧
    ((∃ a, Memory.read t.mem a ≠ Memory.read s.mem a) → (∃ x, i = .ldBVx x) ∨ ∃ x, i = .ldMemVx x)

/-- The V column of the access matrix (R33, R20, R21): a register that an instruction changes is one it names, VF only
by the six flag-writing instructions or as the named register (D21; log 26). -/
def Obligations.OnlyNamedRegistersChange : Prop :=
  ∀ (i : Instr) (s t : State) (r : RegIdx), exec i s = .next t → t.reg r ≠ s.reg r → MayWriteReg i r

/-! ## Encoding -/

/-- Decoding an encoded well-formed instruction gives it back, every operand at every value (R71 to R76). That the words
0NNN and 9xyN are legal is the spec's decisions D18 and D9 (logs 3 and 19); ignored bits as operands are the model's
choice (log 19). -/
def Obligations.DecodeOfEncode : Prop :=
  ∀ i : Instr, WellFormed i → decode (encodeBytes i) = .ok (i, [])

/-- Encoding what a word decodes to gives the word back, and what it decodes to is well formed: each legal word has one
meaning (R72, R73), and no bit of it is dropped. That no bit is dropped is the model's choice: it keeps the bits that
the hardware ignores as operands (log 19). -/
def Obligations.EncodeOfDecode : Prop :=
  ∀ (op : Word) (i : Instr), decodeWord op = .ok i → WellFormed i ∧ encode i = op

/-- The illegal words are exactly those of R79, each refused under its own name; every other word is an instruction. That
the words `0NNN` and `9xyN` are legal and families E and F match the whole low byte are the spec's decisions D18, D9 and D19
(logs 3, 19 and 20). -/
def Obligations.IllegalWordsExactly : Prop :=
  ∀ op : Word,
    (IllegalWord op → decodeWord op = .error (.unsupportedOpcode op)) ∧
    (¬ IllegalWord op → ∃ i, WellFormed i ∧ decodeWord op = .ok i)

/-- Words written out from the encodings (R71, R74) decode to the instructions they stand for. That 0123 is SYS is the
spec's decision D18 (log 3); the ignored nibble of 5123 as an operand is the model's choice (log 19). -/
def Obligations.SampleWordsDecode : Prop :=
  decodeWord 0x00E0#16 = .ok .cls ∧
  decodeWord 0x00EE#16 = .ok .ret ∧
  decodeWord 0x0123#16 = .ok (.sys 0x123#12) ∧
  decodeWord 0x3A05#16 = .ok (.seVxKk 10 0x05#8) ∧
  decodeWord 0x5123#16 = .ok (.seVxVy 1 2 0x3#4) ∧
  decodeWord 0x8AB4#16 = .ok (.addVxVy 10 11) ∧
  decodeWord 0xD012#16 = .ok (.drw 0 1 2) ∧
  decodeWord 0xE0A1#16 = .ok (.sknp 0) ∧
  decodeWord 0xF155#16 = .ok (.ldMemVx 1) ∧
  decodeWord 0x8018#16 = .error (.unsupportedOpcode 0x8018#16) ∧
  decodeWord 0xF029#16 = .error (.unsupportedOpcode 0xF029#16)

/-! ## Moves, arithmetic, logic, random -/

/-- `6xkk` and `8xy0`: the register takes the immediate, or the other register; no fault, and no flag: that `8xy0` leaves
VF alone is the spec's decision D21 (log 26). -/
def Obligations.LoadAndMoveResult : Prop :=
  (∀ (x : RegIdx) (kk : Byte) (s : State), ∃ t, exec (.ldVxKk x kk) s = .next t ∧
    t.reg x = kk ∧ t.pc = s.pc + 2 ∧ Frame (· = x) noPart s t) ∧
  (∀ (x y : RegIdx) (s : State), ∃ t, exec (.ldVxVy x y) s = .next t ∧
    t.reg x = s.reg y ∧ t.pc = s.pc + 2 ∧ Frame (· = x) noPart s t)

/-- `7xkk` (R122): the sum modulo 256, no flag even on wrap-around. -/
def Obligations.AddImmediateWraps : Prop :=
  ∀ (x : RegIdx) (kk : Byte) (s : State), ∃ t, exec (.addVxKk x kk) s = .next t ∧
    (t.reg x).toNat = ((s.reg x).toNat + kk.toNat) % 256 ∧ t.pc = s.pc + 2 ∧ Frame (· = x) noPart s t

/-- `8xy2` and `8xy3`, bit by bit; that VF is not written is the spec's decision D21 (log 26). -/
def Obligations.AndXorResult : Prop :=
  (∀ (x y : RegIdx) (s : State), ∃ t, exec (.andVxVy x y) s = .next t ∧
    (∀ k, (t.reg x).getLsbD k = ((s.reg x).getLsbD k && (s.reg y).getLsbD k)) ∧
    t.pc = s.pc + 2 ∧ Frame (· = x) noPart s t) ∧
  (∀ (x y : RegIdx) (s : State), ∃ t, exec (.xorVxVy x y) s = .next t ∧
    (∀ k, (t.reg x).getLsbD k = ((s.reg x).getLsbD k ^^ (s.reg y).getLsbD k)) ∧
    t.pc = s.pc + 2 ∧ Frame (· = x) noPart s t)

/-- `8xy1`, bit by bit; that VF is not written is the spec's decision D21 (log 26). -/
def Obligations.OrResult : Prop :=
  ∀ (x y : RegIdx) (s : State), ∃ t, exec (.orVxVy x y) s = .next t ∧
    (∀ k, (t.reg x).getLsbD k = ((s.reg x).getLsbD k || (s.reg y).getLsbD k)) ∧
    t.pc = s.pc + 2 ∧ Frame (· = x) noPart s t

/-- `8xy4` for every x and y: the sum modulo 256, VF the carry. That the flag wins when x = 15 is the spec's decision D8
(log 15). -/
def Obligations.AddWithCarryResult : Prop :=
  ∀ (x y : RegIdx) (s : State), ∃ t, exec (.addVxVy x y) s = .next t ∧
    (x ≠ 15 → (t.reg x).toNat = ((s.reg x).toNat + (s.reg y).toNat) % 256) ∧
    t.reg 15 = (if (s.reg x).toNat + (s.reg y).toNat > 255 then 1 else 0) ∧
    t.pc = s.pc + 2 ∧ Frame (fun r => r = x ∨ r = 15) noPart s t

/-- `8xy5` and `8xy7` for every x and y: the difference modulo 256, VF the not-borrow, 1 when the operands are equal. That
the flag wins when x = 15 is the spec's decision D8 (log 15). -/
def Obligations.SubtractResult : Prop :=
  (∀ (x y : RegIdx) (s : State), ∃ t, exec (.sub x y) s = .next t ∧
    (x ≠ 15 → (t.reg x).toNat = ((s.reg x).toNat + 256 - (s.reg y).toNat) % 256) ∧
    t.reg 15 = (if (s.reg x).toNat ≥ (s.reg y).toNat then 1 else 0) ∧
    t.pc = s.pc + 2 ∧ Frame (fun r => r = x ∨ r = 15) noPart s t) ∧
  (∀ (x y : RegIdx) (s : State), ∃ t, exec (.subn x y) s = .next t ∧
    (x ≠ 15 → (t.reg x).toNat = ((s.reg y).toNat + 256 - (s.reg x).toNat) % 256) ∧
    t.reg 15 = (if (s.reg y).toNat ≥ (s.reg x).toNat then 1 else 0) ∧
    t.pc = s.pc + 2 ∧ Frame (fun r => r = x ∨ r = 15) noPart s t)

/-- `8xy6` and `8xyE` for every x and y: Vx shifted in place, Vy not read, VF the bit shifted out. That the flag wins when
x = 15 is the spec's decision D8 (log 15). -/
def Obligations.ShiftResult : Prop :=
  (∀ (x y : RegIdx) (s : State), ∃ t, exec (.shr x y) s = .next t ∧
    (x ≠ 15 → (t.reg x).toNat = (s.reg x).toNat / 2) ∧
    (t.reg 15).toNat = (s.reg x).toNat % 2 ∧
    t.pc = s.pc + 2 ∧ Frame (fun r => r = x ∨ r = 15) noPart s t) ∧
  (∀ (x y : RegIdx) (s : State), ∃ t, exec (.shl x y) s = .next t ∧
    (x ≠ 15 → (t.reg x).toNat = (s.reg x).toNat * 2 % 256) ∧
    (t.reg 15).toNat = (s.reg x).toNat / 128 ∧
    t.pc = s.pc + 2 ∧ Frame (fun r => r = x ∨ r = 15) noPart s t)

/-- `Cxkk`: the byte drawn AND kk. The byte is the oldest one the host side supplied, whichever of the 256 it is, and
used up; with none supplied it is the free value, a fresh one each time. How the input is held is the model's choice
(log 5). That it is a free input is the spec's decision D13. -/
def Obligations.RandomResult : Prop :=
  (∀ (x : RegIdx) (kk b : Byte) (rest : List Byte) (s : State), s.rndSupply = b :: rest →
    ∃ t, exec (.rnd x kk) s = .next t ∧ t.reg x = b &&& kk ∧ t.rndSupply = rest ∧ t.rndCount = s.rndCount ∧
      t.pc = s.pc + 2 ∧ Frame (· = x) (· = .random) s t) ∧
  (∀ (x : RegIdx) (kk : Byte) (s : State), s.rndSupply = [] →
    ∃ t, exec (.rnd x kk) s = .next t ∧ t.reg x = Config.freeByte s.rndCount &&& kk ∧ t.rndSupply = [] ∧
      t.rndCount = s.rndCount + 1 ∧ t.pc = s.pc + 2 ∧ Frame (· = x) (· = .random) s t)

/-! ## Index register and memory -/

/-- `Annn` (R140). -/
def Obligations.LoadIndexResult : Prop :=
  ∀ (nnn : Addr12) (s : State), ∃ t, exec (.ldINnn nnn) s = .next t ∧
    t.i.toNat = nnn.toNat ∧ t.pc = s.pc + 2 ∧ Frame noReg (· = .index) s t

/-- `Fx1E`: the sum modulo 65536 (the spec's decision D22; log 21), no flag. -/
def Obligations.AddIndexWraps : Prop :=
  ∀ (x : RegIdx) (s : State), ∃ t, exec (.addIVx x) s = .next t ∧
    t.i.toNat = (s.i.toNat + (s.reg x).toNat) % 65536 ∧ t.pc = s.pc + 2 ∧ Frame noReg (· = .index) s t

/-- `Fx33` where its three bytes lie in memory: the digits at I, I + 1, I + 2, every other byte as before, I unchanged
(D21; log 26). Memory in canonical form is an invariant of the machine (AnyInterleavingKeepsInv). -/
def Obligations.BcdStoreResult : Prop :=
  ∀ (x : RegIdx) (s : State), Memory.wf s.mem = true → s.i.toNat + 2 ≤ 4095 →
    ∃ t, exec (.ldBVx x) s = .next t ∧
      (Memory.read t.mem s.i.toNat).toNat = (s.reg x).toNat / 100 ∧
      (Memory.read t.mem (s.i.toNat + 1)).toNat = (s.reg x).toNat / 10 % 10 ∧
      (Memory.read t.mem (s.i.toNat + 2)).toNat = (s.reg x).toNat % 10 ∧
      (∀ a, a < s.i.toNat ∨ s.i.toNat + 2 < a → Memory.read t.mem a = Memory.read s.mem a) ∧
      t.pc = s.pc + 2 ∧ Frame noReg (· = .memory) s t

/-- `Fx55` where its bytes lie in memory: Vk at I + k for every k up to x, every other byte as before, I unchanged (D21;
log 26). -/
def Obligations.StoreRegistersResult : Prop :=
  ∀ (x : RegIdx) (s : State), Memory.wf s.mem = true → s.i.toNat + x.val ≤ 4095 →
    ∃ t, exec (.ldMemVx x) s = .next t ∧
      (∀ k : RegIdx, k ≤ x → Memory.read t.mem (s.i.toNat + k.val) = s.reg k) ∧
      (∀ a, a < s.i.toNat ∨ s.i.toNat + x.val < a → Memory.read t.mem a = Memory.read s.mem a) ∧
      t.pc = s.pc + 2 ∧ Frame noReg (· = .memory) s t

/-- `Fx65` where its bytes lie in memory: Vk from I + k for every k up to x, every byte of memory as before, I unchanged
(D21; log 26). -/
def Obligations.LoadRegistersResult : Prop :=
  ∀ (x : RegIdx) (s : State), s.i.toNat + x.val ≤ 4095 →
    ∃ t, exec (.ldVxMem x) s = .next t ∧
      (∀ k : RegIdx, k ≤ x → t.reg k = Memory.read s.mem (s.i.toNat + k.val)) ∧
      t.pc = s.pc + 2 ∧ Frame (· ≤ x) noPart s t

/-- The round trip of `Fx55` and `Fx65` (R144): after a store, any state with the same I and memory loads V0 to Vx back
as they were. The load starts from the I that the store leaves: that `Fx55` leaves I alone is the spec's decision D21
(log 26). -/
def Obligations.StoreThenLoadRestores : Prop :=
  ∀ (x : RegIdx) (s : State), Memory.wf s.mem = true → s.i.toNat + x.val ≤ 4095 →
    ∃ t, exec (.ldMemVx x) s = .next t ∧
      ∀ u : State, u.i = t.i → u.mem = t.mem →
        ∃ w, exec (.ldVxMem x) u = .next w ∧ ∀ r : RegIdx, r ≤ x → w.reg r = s.reg r

/-- A block that passes address 4095: `Fx33`, `Fx55`, `Fx65` and `Dxyn` with n > 0 take `OutOfBounds` with the first
address out of range and change nothing else (the spec's decisions D6 and D24; logs 16 and 11). That addresses do not
wrap is its decision D22 (log 21). -/
def Obligations.BlockOutOfRangeFaults : Prop :=
  ∀ s : State, ∃ a : Word, a.toNat = max s.i.toNat 4096 ∧
    (∀ x, 4095 < s.i.toNat + 2 → exec (.ldBVx x) s = .next { s with fault := some (.dataOutOfBounds a) }) ∧
    (∀ x : RegIdx, 4095 < s.i.toNat + x.val →
      exec (.ldMemVx x) s = .next { s with fault := some (.dataOutOfBounds a) }) ∧
    (∀ x : RegIdx, 4095 < s.i.toNat + x.val →
      exec (.ldVxMem x) s = .next { s with fault := some (.dataOutOfBounds a) }) ∧
    (∀ (x y : RegIdx) (n : RowCount), 0 < n.val → 4095 < s.i.toNat + n.val - 1 →
      exec (.drw x y n) s = .next { s with fault := some (.dataOutOfBounds a) })

/-- A store is seen by the next fetch (R62): `Fx55` over the word after it makes the next fetch read the two registers. -/
def Obligations.StoreSeenByNextFetch : Prop :=
  ∀ (x k k' : RegIdx) (s : State), Memory.wf s.mem = true → s.i.toNat + x.val ≤ 4095 → k'.val = k.val + 1 → k' ≤ x →
    s.pc.toNat + 2 = s.i.toNat + k.val →
    ∃ t op, exec (.ldMemVx x) s = .next t ∧ t.fetch = some op ∧
      op.toNat = 256 * (s.reg k).toNat + (s.reg k').toNat

/-! ## Display -/

/-- `00E0` (R150): every pixel 0, VF not written. -/
def Obligations.ClearScreenResult : Prop :=
  ∀ s : State, ∃ t, exec .cls s = .next t ∧ (∀ r c, Framebuffer.pixel t.fb r c = false) ∧
    t.pc = s.pc + 2 ∧ Frame noReg (· = .screen) s t

/-- `Dxyn` where its bytes lie in memory, or n = 0: a pixel under a 1 bit of the sprite is inverted, every other pixel
stays, VF is 1 exactly when some inverted pixel was 1. The sprite wraps on both axes, and its coordinates are those
before VF is written (x or y = 15: the spec's decision D8; log 15). That I is unchanged is D21 (log 26). -/
def Obligations.DrawXorsSprite : Prop :=
  ∀ (x y : RegIdx) (n : RowCount) (s : State), n.val = 0 ∨ s.i.toNat + n.val - 1 ≤ 4095 →
    ∃ t, exec (.drw x y n) s = .next t ∧
      (∀ r c, SpriteOver s x y n r.val c.val → Framebuffer.pixel t.fb r c = !Framebuffer.pixel s.fb r c) ∧
      (∀ r c, ¬ SpriteOver s x y n r.val c.val → Framebuffer.pixel t.fb r c = Framebuffer.pixel s.fb r c) ∧
      ((∃ r c, SpriteOver s x y n r.val c.val ∧ Framebuffer.pixel s.fb r c = true) → t.reg 15 = 1) ∧
      ((∀ r c, SpriteOver s x y n r.val c.val → Framebuffer.pixel s.fb r c = false) → t.reg 15 = 0) ∧
      t.pc = s.pc + 2 ∧ Frame (· = 15) (· = .screen) s t

/-- Drawing the same sprite twice (R152) with neither coordinate in VF: the framebuffer is as before the first draw, and
VF is 1 exactly when the sprite has a 1 bit over a pixel that was 0 then. That the first draw leaves I as it was is the
spec's decision D21 (log 26). -/
def Obligations.DrawTwiceRestores : Prop :=
  ∀ (x y : RegIdx) (n : RowCount) (s : State), x ≠ 15 → y ≠ 15 → n.val = 0 ∨ s.i.toNat + n.val - 1 ≤ 4095 →
    ∃ t u, exec (.drw x y n) s = .next t ∧ exec (.drw x y n) t = .next u ∧
      (∀ r c, Framebuffer.pixel u.fb r c = Framebuffer.pixel s.fb r c) ∧
      ((∃ r c, SpriteOver s x y n r.val c.val ∧ Framebuffer.pixel s.fb r c = false) → u.reg 15 = 1) ∧
      ((∀ r c, SpriteOver s x y n r.val c.val → Framebuffer.pixel s.fb r c = true) → u.reg 15 = 0)

/-- The flat index of the read port is `row * 64 + column` (R175; the spec's decision D23; log 25). -/
def Obligations.FlatReadIndex : Prop :=
  ∀ (s : State) (r : Fin 32) (c : Fin 64) (k : Fin 2048), k.val = r.val * 64 + c.val →
    fbFlat s k = Framebuffer.pixel s.fb r c

/-! ## Control flow -/

/-- `0nnn`: no operation, whatever nnn (the spec's decision D18, parameter SYS_0NNN_POLICY at `nop`; log 3). -/
def Obligations.SysIsNoOperation : Prop :=
  ∀ (nnn : Addr12) (s : State), ∃ t, exec (.sys nnn) s = .next t ∧ t.pc = s.pc + 2 ∧ OnlyPc s t

/-- `1nnn` and `Bnnn` (R104, R109): the target is nnn, or V0 + nnn without any wrap; nothing is checked in this step. -/
def Obligations.JumpTargets : Prop :=
  (∀ (nnn : Addr12) (s : State), ∃ t, exec (.jp nnn) s = .next t ∧ t.pc.toNat = nnn.toNat ∧ OnlyPc s t) ∧
  (∀ (nnn : Addr12) (s : State), ∃ t, exec (.jpV0 nnn) s = .next t ∧
    t.pc.toNat = (s.reg 0).toNat + nnn.toNat ∧ OnlyPc s t)

/-- `2nnn`: pushes the address after the call and jumps; with 16 entries held it takes `StackOverflow` and changes nothing
else (the spec's decisions D3 and D5, and C3; logs 4, 1 and 27). -/
def Obligations.CallResult : Prop :=
  ∀ (nnn : Addr12) (s : State),
    (s.stack.length < 16 → ∃ t, exec (.call nnn) s = .next t ∧ t.pc.toNat = nnn.toNat ∧
      t.stack = (s.pc + 2) :: s.stack ∧ Frame noReg (· = .stack) s t) ∧
    (s.stack.length = 16 → exec (.call nnn) s = .next { s with fault := some .stackOverflow })

/-- `00EE`: PC takes the top entry, with no further advance; on an empty stack it takes `StackUnderflow` and changes
nothing else (the latch is the spec's decision D5; log 1). -/
def Obligations.ReturnResult : Prop :=
  ∀ s : State,
    (∀ top rest, s.stack = top :: rest → ∃ t, exec .ret s = .next t ∧ t.pc = top ∧ t.stack = rest ∧
      Frame noReg (· = .stack) s t) ∧
    (s.stack = [] → exec .ret s = .next { s with fault := some .stackUnderflow })

/-- A call and a return at once (C3; log 27): execution resumes after the call, the stack and all else as before. The room
for 16 entries is the spec's decision D3 (log 4). -/
def Obligations.ReturnResumesAfterCall : Prop :=
  ∀ (nnn : Addr12) (s : State), s.stack.length < 16 →
    ∃ t u, exec (.call nnn) s = .next t ∧ exec .ret t = .next u ∧ u.pc = s.pc + 2 ∧ OnlyPc s u

/-- `3xkk` and `4xkk` (R105, R106). -/
def Obligations.SkipImmediateResult : Prop :=
  (∀ (x : RegIdx) (kk : Byte) (s : State), ∃ t, exec (.seVxKk x kk) s = .next t ∧
    t.pc = (if (s.reg x).toNat = kk.toNat then s.pc + 4 else s.pc + 2) ∧ OnlyPc s t) ∧
  (∀ (x : RegIdx) (kk : Byte) (s : State), ∃ t, exec (.sneVxKk x kk) s = .next t ∧
    t.pc = (if (s.reg x).toNat = kk.toNat then s.pc + 2 else s.pc + 4) ∧ OnlyPc s t)

/-- `5xyN` for every N (R107). -/
def Obligations.SkipRegistersEqualResult : Prop :=
  ∀ (x y : RegIdx) (n : BitVec 4) (s : State), ∃ t, exec (.seVxVy x y n) s = .next t ∧
    t.pc = (if (s.reg x).toNat = (s.reg y).toNat then s.pc + 4 else s.pc + 2) ∧ OnlyPc s t

/-- `9xyN` for every N; that N is ignored is the spec's decision D9 (log 19). -/
def Obligations.SkipRegistersDifferResult : Prop :=
  ∀ (x y : RegIdx) (n : BitVec 4) (s : State), ∃ t, exec (.sneVxVy x y n) s = .next t ∧
    t.pc = (if (s.reg x).toNat = (s.reg y).toNat then s.pc + 2 else s.pc + 4) ∧ OnlyPc s t

/-- No skip looks at the word it skips (R100): whatever memory holds, and wherever PC is, each of the six goes to pc + 4
or pc + 2, the same one, and changes nothing else. That `9xyN` with N other than 0 is such a skip is the spec's decision
D9 (log 19). -/
def Obligations.SkipIgnoresSkippedWord : Prop :=
  ∀ (i : Instr) (s : State), IsSkip i →
    ∃ t, exec i s = .next t ∧ (t.pc = s.pc + 4 ∨ t.pc = s.pc + 2) ∧ OnlyPc s t ∧
      ∀ m : Memory, exec i { s with mem := m } = .next { t with mem := m }

/-! ## Keys and timers -/

/-- `Ex9E` and `ExA1`: the whole key code is compared with the whole of Vx, and the two are exact complements. That no key
latched equals no Vx, and the 8-bit code, are the spec's decisions D11 and D10 (log 18). -/
def Obligations.KeySkipResult : Prop :=
  ∀ (x : RegIdx) (s : State), ∃ t u, exec (.skp x) s = .next t ∧ exec (.sknp x) s = .next u ∧
    OnlyPc s t ∧ OnlyPc s u ∧
    (∀ code, s.key = some code → code.toNat = (s.reg x).toNat → t.pc = s.pc + 4 ∧ u.pc = s.pc + 2) ∧
    (∀ code, s.key = some code → code.toNat ≠ (s.reg x).toNat → t.pc = s.pc + 2 ∧ u.pc = s.pc + 4) ∧
    (s.key = none → t.pc = s.pc + 2 ∧ u.pc = s.pc + 4)

/-- `Fx0A`: with a key latched Vx takes its code and the latch stays; with none, nothing changes at all (the spec's
decision D12; log 17). That every 8-bit code is accepted is the spec's decision D10 (log 18). -/
def Obligations.KeyWaitResult : Prop :=
  ∀ (x : RegIdx) (s : State),
    (∀ code, s.key = some code → ∃ t, exec (.ldVxK x) s = .next t ∧ t.reg x = code ∧ t.pc = s.pc + 2 ∧
      Frame (· = x) noPart s t) ∧
    (s.key = none → exec (.ldVxK x) s = .next s)

/-- The wait and its end (R197): while `Fx0A` is at PC and no key is latched, every step returns `WaitingForKey` and
changes nothing, and a tick leaves it waiting; the step after the host latches a key completes the instruction. The
stateless wait with the latch kept is the spec's decision D12 (log 17), a tick during the wait D14 (log 23). That every
8-bit code is accepted is the spec's decision D10 (log 18). -/
def Obligations.WaitEndsWithKey : Prop :=
  ∀ (x : RegIdx) (s : State), Executes s (.ldVxK x) → s.key = none →
    step s = .next s ∧ stepStatus s = .waitingForKey ∧ stepStatus (tickTimers s) = .waitingForKey ∧
    ∀ code, ∃ t, step (setKey (some code) s) = .next t ∧ stepStatus (setKey (some code) s) = .continue_ ∧
      t.reg x = code ∧ t.key = some code ∧ t.pc = s.pc + 2 ∧ Frame (· = x) noPart (setKey (some code) s) t

/-- `Fx07`, `Fx15`, `Fx18` (R163, R164, R165). -/
def Obligations.TimerMoves : Prop :=
  (∀ (x : RegIdx) (s : State), ∃ t, exec (.ldVxDt x) s = .next t ∧ t.reg x = s.dt ∧ t.pc = s.pc + 2 ∧
    Frame (· = x) noPart s t) ∧
  (∀ (x : RegIdx) (s : State), ∃ t, exec (.ldDtVx x) s = .next t ∧ t.dt = s.reg x ∧ t.pc = s.pc + 2 ∧
    Frame noReg (· = .delay) s t) ∧
  (∀ (x : RegIdx) (s : State), ∃ t, exec (.ldStVx x) s = .next t ∧ t.st = s.reg x ∧ t.pc = s.pc + 2 ∧
    Frame noReg (· = .sound) s t)

/-- `tick_timers` in every run state: each timer down by 1 and held at 0, nothing else touched (R173; that it is accepted
while waiting or halted is the spec's decision D14; log 23). -/
def Obligations.TickResult : Prop :=
  ∀ s : State, (tickTimers s).dt.toNat = s.dt.toNat - 1 ∧ (tickTimers s).st.toNat = s.st.toNat - 1 ∧
    (tickTimers s).pc = s.pc ∧ Frame noReg (fun p => p = .delay ∨ p = .sound) s (tickTimers s)

/-- What a program may rely on (R166): `Fx15`, then k ticks, then `Fx07` reads `max(v - k, 0)`. That a tick is accepted
in every run state is the spec's decision D14 (log 23). -/
def Obligations.DelayCountsTicks : Prop :=
  ∀ (x y : RegIdx) (k : Nat) (s : State), ∃ t w, exec (.ldDtVx x) s = .next t ∧
    exec (.ldVxDt y) (tickTimers^[k] t) = .next w ∧ (w.reg y).toNat = (s.reg x).toNat - k

/-! ## Host operations and the whole machine -/

/-- `reset` gives every piece of the core's state the value of R34 from any state (the spec's decision D1; log 7). -/
def Obligations.ResetState : Prop :=
  ∀ s : State, (∀ r, (hostReset s).reg r = 0) ∧ (hostReset s).i = 0 ∧ (hostReset s).pc.toNat = 512 ∧
    (hostReset s).stack = [] ∧ (hostReset s).dt = 0 ∧ (hostReset s).st = 0 ∧
    (∀ r c, Framebuffer.pixel (hostReset s).fb r c = false) ∧ (hostReset s).key = none ∧
    (∀ a, Memory.read (hostReset s).mem a = 0) ∧ (hostReset s).fault = none

/-- The memory a load leaves (R64): word k at 512 + 2k, high byte first, every other byte 0 whatever was there before,
and PC = 512. -/
def Obligations.LoadPlacesProgram : Prop :=
  ∀ (ws : List Word) (s : State), ws.length ≤ 1792 →
    (∀ (k : Nat) (w : Word), ws[k]? = some w →
      (Memory.read (hostLoad ws s).1.mem (512 + 2 * k)).toNat = w.toNat / 256 ∧
      (Memory.read (hostLoad ws s).1.mem (513 + 2 * k)).toNat = w.toNat % 256) ∧
    (∀ a, a < 512 ∨ 512 + 2 * ws.length ≤ a → Memory.read (hostLoad ws s).1.mem a = 0) ∧
    (hostLoad ws s).1.pc.toNat = 512

/-- What a load that fits leaves alone, and that it clears the latch (the spec's decisions D2 and D5; log 22). How the
random input is held is the model's choice (log 5). -/
def Obligations.LoadKeepsTheRest : Prop :=
  ∀ (ws : List Word) (s : State), ws.length ≤ 1792 →
    (hostLoad ws s).2 = .ok ∧ (hostLoad ws s).1.fault = none ∧
    Frame noReg (fun p => p = .memory ∨ p = .fault) s (hostLoad ws s).1

/-- A program of more than 1792 words is not loaded (R189): every piece of state stays, the fault latch included. -/
def Obligations.LoadTooLargeChangesNothing : Prop :=
  ∀ (ws : List Word) (s : State), 1792 < ws.length → hostLoad ws s = (s, .programTooLarge)

/-- An idle loop stays (R206; the predicate is the model's, D16; log 28): a jump to itself changes nothing. Computing
the status is the model's choice (log 2). -/
def Obligations.IdleLoopStays : Prop :=
  ∀ s : State, IdleLoop s → step s = .next s ∧ stepStatus s = .continue_

/-- The word that `withFetchWord` places is what the next step runs, from any state with canonical memory, a halted one
or one whose PC is out of range included (how a program comes to run is the model's choice; log 14). -/
def Obligations.PlacedWordRuns : Prop :=
  ∀ (s : State) (op : Word) (i : Instr), Memory.wf s.mem = true → decodeWord op = .ok i →
    step (s.withFetchWord 16 op.toNat) = exec i (s.withFetchWord 16 op.toNat)

/-- The invariant holds at reset. The reset values it rests on, an empty stack, zero memory and PC = 512, are the spec's
decision D1 (log 7); the canonical form of memory is the model's choice (log 9). -/
def Obligations.ResetMeetsInv : Prop := Inv State.reset

/-- Every step keeps the invariant: canonical memory, at most 16 return addresses each between 2 and 4096, PC at most
4350 (R23, R24). It rests on the spec's stack limit (D3; log 4), data fault (D6; log 16), addresses that do not wrap
(D22; log 21) and pushed address (C3; log 27). The canonical form of memory is the model's choice (log 9). -/
def Obligations.StepKeepsInv : Prop :=
  ∀ s t : State, Inv s → step s = .next t → Inv t

/-- Every interleaving of steps and host operations keeps the invariant (R5, R23, R24; any order and any rate is the
spec's decision D14; log 23). It rests on what StepKeepsInv rests on, and on what reset and load write (D1, D2; logs 7
and 22). The canonical form of memory is the model's choice (log 9). -/
def Obligations.AnyInterleavingKeepsInv : Prop :=
  ∀ (es : List Event) (s : State), Inv s → Inv (run es s)
end

