-- ==== Sys2Proof/Laws/Decode.lean ====
section
/-! SUPPORT. The fields of a packed word, byte order, and what the byte decoder does with two bytes. -/

namespace Sys2Proof

@[simp] theorem toFin_regBits (x : Fin 16) : (regBits x).toFin = x := rfl

@[simp] theorem regBits_toFin (b : BitVec 4) : regBits b.toFin = b := rfl

/-! ## Bits of a concatenation, at the widths of the formats -/

theorem packA_bit (f : BitVec 4) (r : Addr12) (k : Nat) :
    (packA f r).getLsbD k = if k < 12 then r.getLsbD k else f.getLsbD (k - 12) := BitVec.getLsbD_append

theorem catNibbleByte_bit (x : BitVec 4) (r : Byte) (k : Nat) :
    (catNibbleByte x r).getLsbD k = if k < 8 then r.getLsbD k else x.getLsbD (k - 8) := BitVec.getLsbD_append

theorem catNibbles_bit (y n : BitVec 4) (k : Nat) :
    (catNibbles y n).getLsbD k = if k < 4 then n.getLsbD k else y.getLsbD (k - 4) := BitVec.getLsbD_append

theorem wordOfBytes_bit (hi lo : Byte) (k : Nat) :
    (wordOfBytes hi lo).getLsbD k = if k < 8 then lo.getLsbD k else hi.getLsbD (k - 8) := BitVec.getLsbD_append

/-! ## The fields of each format (R71, R72) -/

@[simp] theorem fam_packA (f : BitVec 4) (nnn : Addr12) : fam (packA f nnn) = f := by
  apply BitVec.eq_of_getLsbD_eq
  intro k hk
  simp [fam, packA_bit, hk]

@[simp] theorem fieldNnn_packA (f : BitVec 4) (nnn : Addr12) : fieldNnn (packA f nnn) = nnn := by
  apply BitVec.eq_of_getLsbD_eq
  intro k hk
  simp [fieldNnn, packA_bit, hk]

@[simp] theorem fam_packXK (f : BitVec 4) (x : RegIdx) (kk : Byte) : fam (packXK f x kk) = f := fam_packA f _

@[simp] theorem fieldX_packXK (f : BitVec 4) (x : RegIdx) (kk : Byte) : fieldX (packXK f x kk) = x := by
  have e : xBits (packXK f x kk) = regBits x := by
    apply BitVec.eq_of_getLsbD_eq
    intro k hk
    simp [-BitVec.getLsbD_eq_getElem, xBits, packXK, packA_bit, catNibbleByte_bit, hk, show 8 + k < 12 by omega]
  exact congrArg BitVec.toFin e

@[simp] theorem fieldKk_packXK (f : BitVec 4) (x : RegIdx) (kk : Byte) : fieldKk (packXK f x kk) = kk := by
  apply BitVec.eq_of_getLsbD_eq
  intro k hk
  simp [-BitVec.getLsbD_eq_getElem, fieldKk, packXK, packA_bit, catNibbleByte_bit, hk, show k < 12 by omega]

@[simp] theorem fam_packXY (f : BitVec 4) (x y : RegIdx) (n : BitVec 4) : fam (packXY f x y n) = f := fam_packA f _

@[simp] theorem fieldX_packXY (f : BitVec 4) (x y : RegIdx) (n : BitVec 4) : fieldX (packXY f x y n) = x :=
  fieldX_packXK f x _

@[simp] theorem fieldY_packXY (f : BitVec 4) (x y : RegIdx) (n : BitVec 4) : fieldY (packXY f x y n) = y := by
  have e : yBits (packXY f x y n) = regBits y := by
    apply BitVec.eq_of_getLsbD_eq
    intro k hk
    simp [-BitVec.getLsbD_eq_getElem, yBits, packXY, packXK, packA_bit, catNibbleByte_bit, catNibbles_bit, hk, show 4 + k < 12 by omega,
      show 4 + k < 8 by omega]
  exact congrArg BitVec.toFin e

@[simp] theorem nBits_packXY (f : BitVec 4) (x y : RegIdx) (n : BitVec 4) : nBits (packXY f x y n) = n := by
  apply BitVec.eq_of_getLsbD_eq
  intro k hk
  simp [-BitVec.getLsbD_eq_getElem, nBits, packXY, packXK, packA_bit, catNibbleByte_bit, catNibbles_bit, hk, show k < 12 by omega,
    show k < 8 by omega]

/-- A word is packed again from its fields: no bit of it is lost (R72). -/
theorem packA_fields (op : Word) : packA (fam op) (fieldNnn op) = op := by
  apply BitVec.eq_of_getLsbD_eq
  intro k hk
  simp only [packA_bit, fam, fieldNnn, BitVec.getLsbD_extractLsb']
  split
  · simp [*]
  · simp [show k - 12 < 4 by omega, show 12 + (k - 12) = k by omega]

theorem packXK_fields (op : Word) : packXK (fam op) (fieldX op) (fieldKk op) = op := by
  apply BitVec.eq_of_getLsbD_eq
  intro k hk
  simp only [packXK, packA_bit, catNibbleByte_bit, fam, fieldX, fieldKk, regBits_toFin, xBits, BitVec.getLsbD_extractLsb']
  split
  · split
    · simp [*]
    · simp [show k - 8 < 4 by omega, show 8 + (k - 8) = k by omega]
  · simp [show k - 12 < 4 by omega, show 12 + (k - 12) = k by omega]

theorem packXY_fields (op : Word) : packXY (fam op) (fieldX op) (fieldY op) (nBits op) = op := by
  apply BitVec.eq_of_getLsbD_eq
  intro k hk
  simp only [packXY, packXK, packA_bit, catNibbleByte_bit, catNibbles_bit, fam, fieldX, fieldY, regBits_toFin, xBits, yBits, nBits,
    BitVec.getLsbD_extractLsb']
  split
  · split
    · split
      · simp [*]
      · simp [show k - 4 < 4 by omega, show 4 + (k - 4) = k by omega]
    · simp [show k - 8 < 4 by omega, show 8 + (k - 8) = k by omega]
  · simp [show k - 12 < 4 by omega, show 12 + (k - 12) = k by omega]

/-- A nibble that is none of 0 to E is F: the last arm of `decodeWord` is family F (R81). -/
theorem nibble_eq_F {f : BitVec 4} (h0 : f ≠ 0x0#4) (h1 : f ≠ 0x1#4) (h2 : f ≠ 0x2#4) (h3 : f ≠ 0x3#4)
    (h4 : f ≠ 0x4#4) (h5 : f ≠ 0x5#4) (h6 : f ≠ 0x6#4) (h7 : f ≠ 0x7#4) (h8 : f ≠ 0x8#4) (h9 : f ≠ 0x9#4)
    (hA : f ≠ 0xA#4) (hB : f ≠ 0xB#4) (hC : f ≠ 0xC#4) (hD : f ≠ 0xD#4) (hE : f ≠ 0xE#4) : f = 0xF#4 := by
  bv_omega

/-! ## Bytes and words (R52) -/

@[simp] theorem hiByte_wordOfBytes (hi lo : Byte) : hiByte (wordOfBytes hi lo) = hi := by
  apply BitVec.eq_of_getLsbD_eq
  intro k hk
  simp [hiByte, wordOfBytes_bit, hk]

@[simp] theorem loByte_wordOfBytes (hi lo : Byte) : loByte (wordOfBytes hi lo) = lo := by
  apply BitVec.eq_of_getLsbD_eq
  intro k hk
  simp [loByte, wordOfBytes_bit, hk]

@[simp] theorem wordOfBytes_hiByte_loByte (w : Word) : wordOfBytes (hiByte w) (loByte w) = w := by
  apply BitVec.eq_of_getLsbD_eq
  intro k hk
  simp only [wordOfBytes_bit, hiByte, loByte, BitVec.getLsbD_extractLsb']
  split
  · simp [*]
  · simp [show k - 8 < 8 by omega, show 8 + (k - 8) = k by omega]

theorem wordOfBytes_toNat (hi lo : Byte) : (wordOfBytes hi lo).toNat = 256 * hi.toNat + lo.toNat := by
  have := lo.isLt
  rw [wordOfBytes, BitVec.toNat_append, ← Nat.shiftLeft_add_eq_or_of_lt lo.isLt, Nat.shiftLeft_eq]
  omega

/-- Two bytes decode to `i` with nothing left over exactly when their word does (R70, R73). -/
theorem decode_pair_eq_ok {hi lo : Byte} {i : Instr} :
    decode [hi, lo] = .ok (i, []) ↔ decodeWord (wordOfBytes hi lo) = .ok i := by
  simp only [decode]
  cases decodeWord (wordOfBytes hi lo) <;> simp

end Sys2Proof
end

