-- ==== Sys2Proof/Laws/Framebuffer.lean ====
section
/-! SUPPORT. Pixels: a read after a write, the blank framebuffer, and what one plotted pixel does. -/

namespace Sys2Proof.Machine

@[simp] theorem Framebuffer.pixel_blank (r : Fin Config.fbHeight) (c : Fin Config.fbWidth) :
    Framebuffer.pixel Framebuffer.blank r c = false := by
  simp [Framebuffer.pixel, Framebuffer.blank]

/-- A pixel read after a pixel write (R27). -/
theorem Framebuffer.pixel_setPixel (fb : Framebuffer) (r r' : Fin Config.fbHeight) (c c' : Fin Config.fbWidth) (b : Bool) :
    Framebuffer.pixel (Framebuffer.setPixel fb r c b) r' c' = if r' = r ∧ c' = c then b else Framebuffer.pixel fb r' c' := by
  by_cases hr : r' = r
  · subst hr
    by_cases hc : c' = c
    · subst hc; simp [Framebuffer.pixel, Framebuffer.setPixel]
    · have h : c.val ≠ c'.val := fun e => hc (Fin.ext e.symm)
      simp [Framebuffer.pixel, Framebuffer.setPixel, hc, Vector.getElem_set_ne _ _ h]
  · have h : r.val ≠ r'.val := fun e => hr (Fin.ext e.symm)
    simp [Framebuffer.pixel, Framebuffer.setPixel, hr, Vector.getElem_set_ne _ _ h]

/-- Two framebuffers with the same pixels are the same. -/
theorem Framebuffer.ext_pixel {f g : Framebuffer} (h : ∀ r c, Framebuffer.pixel f r c = Framebuffer.pixel g r c) : f = g := by
  apply Vector.ext
  intro r hr
  apply Vector.ext
  intro c hc
  exact h ⟨r, hr⟩ ⟨c, hc⟩

/-- One plotted pixel: the target is XORed with the bit, every other pixel stays (R151). -/
theorem plot_pixel (r r' : Fin Config.fbHeight) (c c' : Fin Config.fbWidth) (bit : Bool) (acc : Framebuffer × Bool) :
    Framebuffer.pixel (plot r c bit acc).1 r' c' =
      if r' = r ∧ c' = c then Framebuffer.pixel acc.1 r c ^^ bit else Framebuffer.pixel acc.1 r' c' := by
  simp only [plot, Framebuffer.pixel_setPixel]

/-- One plotted pixel collides when it erases a set pixel; an earlier collision is kept (R151). -/
theorem plot_collision (r : Fin Config.fbHeight) (c : Fin Config.fbWidth) (bit : Bool) (acc : Framebuffer × Bool) :
    (plot r c bit acc).2 = (acc.2 || (Framebuffer.pixel acc.1 r c && bit)) := by
  simp only [plot, pixelCollides]
  cases Framebuffer.pixel acc.1 r c <;> cases bit <;> rfl

end Sys2Proof.Machine
end

