-- ==== Sys2Proof/Laws/State.lean ====
section
/-! SUPPORT. One lemma per field per update of State, and how the register reads see the updates. -/

namespace Sys2Proof.Machine

/-! ### setReg -/

@[simp] theorem State.setReg_v (s : State) (x : RegIdx) (b : Byte) : (s.setReg x b).v = s.v.set x b := rfl
@[simp] theorem State.setReg_i (s : State) (x : RegIdx) (b : Byte) : (s.setReg x b).i = s.i := rfl
@[simp] theorem State.setReg_pc (s : State) (x : RegIdx) (b : Byte) : (s.setReg x b).pc = s.pc := rfl
@[simp] theorem State.setReg_stack (s : State) (x : RegIdx) (b : Byte) : (s.setReg x b).stack = s.stack := rfl
@[simp] theorem State.setReg_dt (s : State) (x : RegIdx) (b : Byte) : (s.setReg x b).dt = s.dt := rfl
@[simp] theorem State.setReg_st (s : State) (x : RegIdx) (b : Byte) : (s.setReg x b).st = s.st := rfl
@[simp] theorem State.setReg_fb (s : State) (x : RegIdx) (b : Byte) : (s.setReg x b).fb = s.fb := rfl
@[simp] theorem State.setReg_key (s : State) (x : RegIdx) (b : Byte) : (s.setReg x b).key = s.key := rfl
@[simp] theorem State.setReg_mem (s : State) (x : RegIdx) (b : Byte) : (s.setReg x b).mem = s.mem := rfl
@[simp] theorem State.setReg_fault (s : State) (x : RegIdx) (b : Byte) : (s.setReg x b).fault = s.fault := rfl
@[simp] theorem State.setReg_rndSupply (s : State) (x : RegIdx) (b : Byte) : (s.setReg x b).rndSupply = s.rndSupply := rfl
@[simp] theorem State.setReg_rndCount (s : State) (x : RegIdx) (b : Byte) : (s.setReg x b).rndCount = s.rndCount := rfl

/-! ### setI -/

@[simp] theorem State.setI_v (s : State) (w : Word) : (s.setI w).v = s.v := rfl
@[simp] theorem State.setI_i (s : State) (w : Word) : (s.setI w).i = w := rfl
@[simp] theorem State.setI_pc (s : State) (w : Word) : (s.setI w).pc = s.pc := rfl
@[simp] theorem State.setI_stack (s : State) (w : Word) : (s.setI w).stack = s.stack := rfl
@[simp] theorem State.setI_dt (s : State) (w : Word) : (s.setI w).dt = s.dt := rfl
@[simp] theorem State.setI_st (s : State) (w : Word) : (s.setI w).st = s.st := rfl
@[simp] theorem State.setI_fb (s : State) (w : Word) : (s.setI w).fb = s.fb := rfl
@[simp] theorem State.setI_key (s : State) (w : Word) : (s.setI w).key = s.key := rfl
@[simp] theorem State.setI_mem (s : State) (w : Word) : (s.setI w).mem = s.mem := rfl
@[simp] theorem State.setI_fault (s : State) (w : Word) : (s.setI w).fault = s.fault := rfl
@[simp] theorem State.setI_rndSupply (s : State) (w : Word) : (s.setI w).rndSupply = s.rndSupply := rfl
@[simp] theorem State.setI_rndCount (s : State) (w : Word) : (s.setI w).rndCount = s.rndCount := rfl

/-! ### setDt -/

@[simp] theorem State.setDt_v (s : State) (b : Byte) : (s.setDt b).v = s.v := rfl
@[simp] theorem State.setDt_i (s : State) (b : Byte) : (s.setDt b).i = s.i := rfl
@[simp] theorem State.setDt_pc (s : State) (b : Byte) : (s.setDt b).pc = s.pc := rfl
@[simp] theorem State.setDt_stack (s : State) (b : Byte) : (s.setDt b).stack = s.stack := rfl
@[simp] theorem State.setDt_dt (s : State) (b : Byte) : (s.setDt b).dt = b := rfl
@[simp] theorem State.setDt_st (s : State) (b : Byte) : (s.setDt b).st = s.st := rfl
@[simp] theorem State.setDt_fb (s : State) (b : Byte) : (s.setDt b).fb = s.fb := rfl
@[simp] theorem State.setDt_key (s : State) (b : Byte) : (s.setDt b).key = s.key := rfl
@[simp] theorem State.setDt_mem (s : State) (b : Byte) : (s.setDt b).mem = s.mem := rfl
@[simp] theorem State.setDt_fault (s : State) (b : Byte) : (s.setDt b).fault = s.fault := rfl
@[simp] theorem State.setDt_rndSupply (s : State) (b : Byte) : (s.setDt b).rndSupply = s.rndSupply := rfl
@[simp] theorem State.setDt_rndCount (s : State) (b : Byte) : (s.setDt b).rndCount = s.rndCount := rfl

/-! ### setSt -/

@[simp] theorem State.setSt_v (s : State) (b : Byte) : (s.setSt b).v = s.v := rfl
@[simp] theorem State.setSt_i (s : State) (b : Byte) : (s.setSt b).i = s.i := rfl
@[simp] theorem State.setSt_pc (s : State) (b : Byte) : (s.setSt b).pc = s.pc := rfl
@[simp] theorem State.setSt_stack (s : State) (b : Byte) : (s.setSt b).stack = s.stack := rfl
@[simp] theorem State.setSt_dt (s : State) (b : Byte) : (s.setSt b).dt = s.dt := rfl
@[simp] theorem State.setSt_st (s : State) (b : Byte) : (s.setSt b).st = b := rfl
@[simp] theorem State.setSt_fb (s : State) (b : Byte) : (s.setSt b).fb = s.fb := rfl
@[simp] theorem State.setSt_key (s : State) (b : Byte) : (s.setSt b).key = s.key := rfl
@[simp] theorem State.setSt_mem (s : State) (b : Byte) : (s.setSt b).mem = s.mem := rfl
@[simp] theorem State.setSt_fault (s : State) (b : Byte) : (s.setSt b).fault = s.fault := rfl
@[simp] theorem State.setSt_rndSupply (s : State) (b : Byte) : (s.setSt b).rndSupply = s.rndSupply := rfl
@[simp] theorem State.setSt_rndCount (s : State) (b : Byte) : (s.setSt b).rndCount = s.rndCount := rfl

/-! ### setFb -/

@[simp] theorem State.setFb_v (s : State) (g : Framebuffer) : (s.setFb g).v = s.v := rfl
@[simp] theorem State.setFb_i (s : State) (g : Framebuffer) : (s.setFb g).i = s.i := rfl
@[simp] theorem State.setFb_pc (s : State) (g : Framebuffer) : (s.setFb g).pc = s.pc := rfl
@[simp] theorem State.setFb_stack (s : State) (g : Framebuffer) : (s.setFb g).stack = s.stack := rfl
@[simp] theorem State.setFb_dt (s : State) (g : Framebuffer) : (s.setFb g).dt = s.dt := rfl
@[simp] theorem State.setFb_st (s : State) (g : Framebuffer) : (s.setFb g).st = s.st := rfl
@[simp] theorem State.setFb_fb (s : State) (g : Framebuffer) : (s.setFb g).fb = g := rfl
@[simp] theorem State.setFb_key (s : State) (g : Framebuffer) : (s.setFb g).key = s.key := rfl
@[simp] theorem State.setFb_mem (s : State) (g : Framebuffer) : (s.setFb g).mem = s.mem := rfl
@[simp] theorem State.setFb_fault (s : State) (g : Framebuffer) : (s.setFb g).fault = s.fault := rfl
@[simp] theorem State.setFb_rndSupply (s : State) (g : Framebuffer) : (s.setFb g).rndSupply = s.rndSupply := rfl
@[simp] theorem State.setFb_rndCount (s : State) (g : Framebuffer) : (s.setFb g).rndCount = s.rndCount := rfl

/-! ### setMem -/

@[simp] theorem State.setMem_v (s : State) (m : Memory) : (s.setMem m).v = s.v := rfl
@[simp] theorem State.setMem_i (s : State) (m : Memory) : (s.setMem m).i = s.i := rfl
@[simp] theorem State.setMem_pc (s : State) (m : Memory) : (s.setMem m).pc = s.pc := rfl
@[simp] theorem State.setMem_stack (s : State) (m : Memory) : (s.setMem m).stack = s.stack := rfl
@[simp] theorem State.setMem_dt (s : State) (m : Memory) : (s.setMem m).dt = s.dt := rfl
@[simp] theorem State.setMem_st (s : State) (m : Memory) : (s.setMem m).st = s.st := rfl
@[simp] theorem State.setMem_fb (s : State) (m : Memory) : (s.setMem m).fb = s.fb := rfl
@[simp] theorem State.setMem_key (s : State) (m : Memory) : (s.setMem m).key = s.key := rfl
@[simp] theorem State.setMem_mem (s : State) (m : Memory) : (s.setMem m).mem = m := rfl
@[simp] theorem State.setMem_fault (s : State) (m : Memory) : (s.setMem m).fault = s.fault := rfl
@[simp] theorem State.setMem_rndSupply (s : State) (m : Memory) : (s.setMem m).rndSupply = s.rndSupply := rfl
@[simp] theorem State.setMem_rndCount (s : State) (m : Memory) : (s.setMem m).rndCount = s.rndCount := rfl

/-! ### jump -/

@[simp] theorem State.jump_v (s : State) (w : Word) : (s.jump w).v = s.v := rfl
@[simp] theorem State.jump_i (s : State) (w : Word) : (s.jump w).i = s.i := rfl
@[simp] theorem State.jump_pc (s : State) (w : Word) : (s.jump w).pc = w := rfl
@[simp] theorem State.jump_stack (s : State) (w : Word) : (s.jump w).stack = s.stack := rfl
@[simp] theorem State.jump_dt (s : State) (w : Word) : (s.jump w).dt = s.dt := rfl
@[simp] theorem State.jump_st (s : State) (w : Word) : (s.jump w).st = s.st := rfl
@[simp] theorem State.jump_fb (s : State) (w : Word) : (s.jump w).fb = s.fb := rfl
@[simp] theorem State.jump_key (s : State) (w : Word) : (s.jump w).key = s.key := rfl
@[simp] theorem State.jump_mem (s : State) (w : Word) : (s.jump w).mem = s.mem := rfl
@[simp] theorem State.jump_fault (s : State) (w : Word) : (s.jump w).fault = s.fault := rfl
@[simp] theorem State.jump_rndSupply (s : State) (w : Word) : (s.jump w).rndSupply = s.rndSupply := rfl
@[simp] theorem State.jump_rndCount (s : State) (w : Word) : (s.jump w).rndCount = s.rndCount := rfl

/-! ### advance -/

@[simp] theorem State.advance_v (s : State) : s.advance.v = s.v := rfl
@[simp] theorem State.advance_i (s : State) : s.advance.i = s.i := rfl
@[simp] theorem State.advance_pc (s : State) : s.advance.pc = s.pc + 2 := rfl
@[simp] theorem State.advance_stack (s : State) : s.advance.stack = s.stack := rfl
@[simp] theorem State.advance_dt (s : State) : s.advance.dt = s.dt := rfl
@[simp] theorem State.advance_st (s : State) : s.advance.st = s.st := rfl
@[simp] theorem State.advance_fb (s : State) : s.advance.fb = s.fb := rfl
@[simp] theorem State.advance_key (s : State) : s.advance.key = s.key := rfl
@[simp] theorem State.advance_mem (s : State) : s.advance.mem = s.mem := rfl
@[simp] theorem State.advance_fault (s : State) : s.advance.fault = s.fault := rfl
@[simp] theorem State.advance_rndSupply (s : State) : s.advance.rndSupply = s.rndSupply := rfl
@[simp] theorem State.advance_rndCount (s : State) : s.advance.rndCount = s.rndCount := rfl

/-! ### push -/

@[simp] theorem State.push_v (s : State) (w : Word) : (s.push w).v = s.v := rfl
@[simp] theorem State.push_i (s : State) (w : Word) : (s.push w).i = s.i := rfl
@[simp] theorem State.push_pc (s : State) (w : Word) : (s.push w).pc = s.pc := rfl
@[simp] theorem State.push_stack (s : State) (w : Word) : (s.push w).stack = w :: s.stack := rfl
@[simp] theorem State.push_dt (s : State) (w : Word) : (s.push w).dt = s.dt := rfl
@[simp] theorem State.push_st (s : State) (w : Word) : (s.push w).st = s.st := rfl
@[simp] theorem State.push_fb (s : State) (w : Word) : (s.push w).fb = s.fb := rfl
@[simp] theorem State.push_key (s : State) (w : Word) : (s.push w).key = s.key := rfl
@[simp] theorem State.push_mem (s : State) (w : Word) : (s.push w).mem = s.mem := rfl
@[simp] theorem State.push_fault (s : State) (w : Word) : (s.push w).fault = s.fault := rfl
@[simp] theorem State.push_rndSupply (s : State) (w : Word) : (s.push w).rndSupply = s.rndSupply := rfl
@[simp] theorem State.push_rndCount (s : State) (w : Word) : (s.push w).rndCount = s.rndCount := rfl

/-! ### latch -/

@[simp] theorem State.latch_v (s : State) (f : Fault) : (s.latch f).v = s.v := rfl
@[simp] theorem State.latch_i (s : State) (f : Fault) : (s.latch f).i = s.i := rfl
@[simp] theorem State.latch_pc (s : State) (f : Fault) : (s.latch f).pc = s.pc := rfl
@[simp] theorem State.latch_stack (s : State) (f : Fault) : (s.latch f).stack = s.stack := rfl
@[simp] theorem State.latch_dt (s : State) (f : Fault) : (s.latch f).dt = s.dt := rfl
@[simp] theorem State.latch_st (s : State) (f : Fault) : (s.latch f).st = s.st := rfl
@[simp] theorem State.latch_fb (s : State) (f : Fault) : (s.latch f).fb = s.fb := rfl
@[simp] theorem State.latch_key (s : State) (f : Fault) : (s.latch f).key = s.key := rfl
@[simp] theorem State.latch_mem (s : State) (f : Fault) : (s.latch f).mem = s.mem := rfl
@[simp] theorem State.latch_fault (s : State) (f : Fault) : (s.latch f).fault = some f := rfl
@[simp] theorem State.latch_rndSupply (s : State) (f : Fault) : (s.latch f).rndSupply = s.rndSupply := rfl
@[simp] theorem State.latch_rndCount (s : State) (f : Fault) : (s.latch f).rndCount = s.rndCount := rfl

/-! ### clearFault -/

@[simp] theorem State.clearFault_v (s : State) : s.clearFault.v = s.v := rfl
@[simp] theorem State.clearFault_i (s : State) : s.clearFault.i = s.i := rfl
@[simp] theorem State.clearFault_pc (s : State) : s.clearFault.pc = s.pc := rfl
@[simp] theorem State.clearFault_stack (s : State) : s.clearFault.stack = s.stack := rfl
@[simp] theorem State.clearFault_dt (s : State) : s.clearFault.dt = s.dt := rfl
@[simp] theorem State.clearFault_st (s : State) : s.clearFault.st = s.st := rfl
@[simp] theorem State.clearFault_fb (s : State) : s.clearFault.fb = s.fb := rfl
@[simp] theorem State.clearFault_key (s : State) : s.clearFault.key = s.key := rfl
@[simp] theorem State.clearFault_mem (s : State) : s.clearFault.mem = s.mem := rfl
@[simp] theorem State.clearFault_fault (s : State) : s.clearFault.fault = none := rfl
@[simp] theorem State.clearFault_rndSupply (s : State) : s.clearFault.rndSupply = s.rndSupply := rfl
@[simp] theorem State.clearFault_rndCount (s : State) : s.clearFault.rndCount = s.rndCount := rfl

/-! ### setFlag -/

@[simp] theorem State.setFlag_v (s : State) (b : Bool) : (s.setFlag b).v = s.v.set vf (flagByte b) := rfl
@[simp] theorem State.setFlag_i (s : State) (b : Bool) : (s.setFlag b).i = s.i := rfl
@[simp] theorem State.setFlag_pc (s : State) (b : Bool) : (s.setFlag b).pc = s.pc := rfl
@[simp] theorem State.setFlag_stack (s : State) (b : Bool) : (s.setFlag b).stack = s.stack := rfl
@[simp] theorem State.setFlag_dt (s : State) (b : Bool) : (s.setFlag b).dt = s.dt := rfl
@[simp] theorem State.setFlag_st (s : State) (b : Bool) : (s.setFlag b).st = s.st := rfl
@[simp] theorem State.setFlag_fb (s : State) (b : Bool) : (s.setFlag b).fb = s.fb := rfl
@[simp] theorem State.setFlag_key (s : State) (b : Bool) : (s.setFlag b).key = s.key := rfl
@[simp] theorem State.setFlag_mem (s : State) (b : Bool) : (s.setFlag b).mem = s.mem := rfl
@[simp] theorem State.setFlag_fault (s : State) (b : Bool) : (s.setFlag b).fault = s.fault := rfl
@[simp] theorem State.setFlag_rndSupply (s : State) (b : Bool) : (s.setFlag b).rndSupply = s.rndSupply := rfl
@[simp] theorem State.setFlag_rndCount (s : State) (b : Bool) : (s.setFlag b).rndCount = s.rndCount := rfl

/-! ### setRegFlag -/

@[simp] theorem State.setRegFlag_v (s : State) (x : RegIdx) (b : Byte) (f : Bool) : (s.setRegFlag x b f).v = (s.v.set x b).set vf (flagByte f) := rfl
@[simp] theorem State.setRegFlag_i (s : State) (x : RegIdx) (b : Byte) (f : Bool) : (s.setRegFlag x b f).i = s.i := rfl
@[simp] theorem State.setRegFlag_pc (s : State) (x : RegIdx) (b : Byte) (f : Bool) : (s.setRegFlag x b f).pc = s.pc := rfl
@[simp] theorem State.setRegFlag_stack (s : State) (x : RegIdx) (b : Byte) (f : Bool) : (s.setRegFlag x b f).stack = s.stack := rfl
@[simp] theorem State.setRegFlag_dt (s : State) (x : RegIdx) (b : Byte) (f : Bool) : (s.setRegFlag x b f).dt = s.dt := rfl
@[simp] theorem State.setRegFlag_st (s : State) (x : RegIdx) (b : Byte) (f : Bool) : (s.setRegFlag x b f).st = s.st := rfl
@[simp] theorem State.setRegFlag_fb (s : State) (x : RegIdx) (b : Byte) (f : Bool) : (s.setRegFlag x b f).fb = s.fb := rfl
@[simp] theorem State.setRegFlag_key (s : State) (x : RegIdx) (b : Byte) (f : Bool) : (s.setRegFlag x b f).key = s.key := rfl
@[simp] theorem State.setRegFlag_mem (s : State) (x : RegIdx) (b : Byte) (f : Bool) : (s.setRegFlag x b f).mem = s.mem := rfl
@[simp] theorem State.setRegFlag_fault (s : State) (x : RegIdx) (b : Byte) (f : Bool) : (s.setRegFlag x b f).fault = s.fault := rfl
@[simp] theorem State.setRegFlag_rndSupply (s : State) (x : RegIdx) (b : Byte) (f : Bool) : (s.setRegFlag x b f).rndSupply = s.rndSupply := rfl
@[simp] theorem State.setRegFlag_rndCount (s : State) (x : RegIdx) (b : Byte) (f : Bool) : (s.setRegFlag x b f).rndCount = s.rndCount := rfl

/-! ### takeRnd and skipIf -/

@[simp] theorem State.takeRnd_v (s : State) : s.takeRnd.v = s.v := by
  unfold State.takeRnd; split <;> rfl
@[simp] theorem State.takeRnd_i (s : State) : s.takeRnd.i = s.i := by
  unfold State.takeRnd; split <;> rfl
@[simp] theorem State.takeRnd_pc (s : State) : s.takeRnd.pc = s.pc := by
  unfold State.takeRnd; split <;> rfl
@[simp] theorem State.takeRnd_stack (s : State) : s.takeRnd.stack = s.stack := by
  unfold State.takeRnd; split <;> rfl
@[simp] theorem State.takeRnd_dt (s : State) : s.takeRnd.dt = s.dt := by
  unfold State.takeRnd; split <;> rfl
@[simp] theorem State.takeRnd_st (s : State) : s.takeRnd.st = s.st := by
  unfold State.takeRnd; split <;> rfl
@[simp] theorem State.takeRnd_fb (s : State) : s.takeRnd.fb = s.fb := by
  unfold State.takeRnd; split <;> rfl
@[simp] theorem State.takeRnd_key (s : State) : s.takeRnd.key = s.key := by
  unfold State.takeRnd; split <;> rfl
@[simp] theorem State.takeRnd_mem (s : State) : s.takeRnd.mem = s.mem := by
  unfold State.takeRnd; split <;> rfl
@[simp] theorem State.takeRnd_fault (s : State) : s.takeRnd.fault = s.fault := by
  unfold State.takeRnd; split <;> rfl

@[simp] theorem State.skipIf_v (s : State) (c : Bool) : (s.skipIf c).v = s.v := by
  cases c <;> rfl
@[simp] theorem State.skipIf_i (s : State) (c : Bool) : (s.skipIf c).i = s.i := by
  cases c <;> rfl
@[simp] theorem State.skipIf_stack (s : State) (c : Bool) : (s.skipIf c).stack = s.stack := by
  cases c <;> rfl
@[simp] theorem State.skipIf_dt (s : State) (c : Bool) : (s.skipIf c).dt = s.dt := by
  cases c <;> rfl
@[simp] theorem State.skipIf_st (s : State) (c : Bool) : (s.skipIf c).st = s.st := by
  cases c <;> rfl
@[simp] theorem State.skipIf_fb (s : State) (c : Bool) : (s.skipIf c).fb = s.fb := by
  cases c <;> rfl
@[simp] theorem State.skipIf_key (s : State) (c : Bool) : (s.skipIf c).key = s.key := by
  cases c <;> rfl
@[simp] theorem State.skipIf_mem (s : State) (c : Bool) : (s.skipIf c).mem = s.mem := by
  cases c <;> rfl
@[simp] theorem State.skipIf_fault (s : State) (c : Bool) : (s.skipIf c).fault = s.fault := by
  cases c <;> rfl
@[simp] theorem State.skipIf_rndSupply (s : State) (c : Bool) : (s.skipIf c).rndSupply = s.rndSupply := by
  cases c <;> rfl
@[simp] theorem State.skipIf_rndCount (s : State) (c : Bool) : (s.skipIf c).rndCount = s.rndCount := by
  cases c <;> rfl
@[simp] theorem State.skipIf_pc (s : State) (c : Bool) : (s.skipIf c).pc = if c then s.pc + 4 else s.pc + 2 := by
  cases c <;> rfl

theorem State.rndByte_supplied {s : State} {b : Byte} {rest : List Byte} (h : s.rndSupply = b :: rest) :
    s.rndByte = b ∧ s.takeRnd.rndSupply = rest ∧ s.takeRnd.rndCount = s.rndCount := by
  simp [State.rndByte, State.takeRnd, h]

theorem State.rndByte_free {s : State} (h : s.rndSupply = []) :
    s.rndByte = Config.freeByte s.rndCount ∧ s.takeRnd.rndSupply = [] ∧ s.takeRnd.rndCount = s.rndCount + 1 := by
  simp [State.rndByte, State.takeRnd, h]

/-! ### Reading a register after an update -/

@[simp] theorem State.reg_setReg_self (s : State) (x : RegIdx) (b : Byte) : (s.setReg x b).reg x = b := by
  simp [State.reg]

theorem State.reg_setReg (s : State) (x r : RegIdx) (b : Byte) :
    (s.setReg x b).reg r = if r = x then b else s.reg r := by
  by_cases h : r = x
  · subst h; simp
  · have h' : x.val ≠ r.val := fun e => h (Fin.ext e.symm)
    simp [State.reg, h, Vector.getElem_set_ne _ _ h']

@[simp] theorem State.reg_setReg_of_ne (s : State) {x r : RegIdx} (b : Byte) (h : r ≠ x) :
    (s.setReg x b).reg r = s.reg r := by simp [State.reg_setReg, h]

@[simp] theorem State.reg_setFlag (s : State) (r : RegIdx) (f : Bool) :
    (s.setFlag f).reg r = if r = vf then flagByte f else s.reg r := State.reg_setReg s vf r (flagByte f)

/-- The flag wins over the result when both go to VF (R120). -/
@[simp] theorem State.reg_setRegFlag (s : State) (x r : RegIdx) (b : Byte) (f : Bool) :
    (s.setRegFlag x b f).reg r = if r = vf then flagByte f else if r = x then b else s.reg r := by
  simp [State.setRegFlag, State.reg_setReg]

@[simp] theorem State.reg_setI (s : State) (r : RegIdx) (w : Word) : (s.setI w).reg r = s.reg r := rfl
@[simp] theorem State.reg_setDt (s : State) (r : RegIdx) (b : Byte) : (s.setDt b).reg r = s.reg r := rfl
@[simp] theorem State.reg_setSt (s : State) (r : RegIdx) (b : Byte) : (s.setSt b).reg r = s.reg r := rfl
@[simp] theorem State.reg_setFb (s : State) (r : RegIdx) (g : Framebuffer) : (s.setFb g).reg r = s.reg r := rfl
@[simp] theorem State.reg_setMem (s : State) (r : RegIdx) (m : Memory) : (s.setMem m).reg r = s.reg r := rfl
@[simp] theorem State.reg_jump (s : State) (r : RegIdx) (w : Word) : (s.jump w).reg r = s.reg r := rfl
@[simp] theorem State.reg_advance (s : State) (r : RegIdx) : s.advance.reg r = s.reg r := rfl
@[simp] theorem State.reg_push (s : State) (r : RegIdx) (w : Word) : (s.push w).reg r = s.reg r := rfl
@[simp] theorem State.reg_latch (s : State) (r : RegIdx) (f : Fault) : (s.latch f).reg r = s.reg r := rfl
@[simp] theorem State.reg_clearFault (s : State) (r : RegIdx) : s.clearFault.reg r = s.reg r := rfl
@[simp] theorem State.reg_skipIf (s : State) (r : RegIdx) (c : Bool) : (s.skipIf c).reg r = s.reg r := by
  simp [State.reg]
@[simp] theorem State.reg_takeRnd (s : State) (r : RegIdx) : s.takeRnd.reg r = s.reg r := by
  simp [State.reg]

end Sys2Proof.Machine
end

