-- ==== Sys2Proof/Laws/Ops.lean ====
section
/-! SUPPORT. What each shared operation can do, said once: the later proofs cite these lemmas instead of unfolding. -/

namespace Sys2Proof.Machine

/-- Fault entry answers one next state, the same but for the latch (R183). -/
theorem raise_eq_next {f : Fault} {s t : State} : raise f s = .next t ↔ t = { s with fault := some f } := by
  simp [raise, State.latch, eq_comm]

theorem State.blockFits_iff (s : State) (len : Nat) :
    s.blockFits len = true ↔ len = 0 ∨ s.i.toNat + len - 1 ≤ 4095 := by
  simp [State.blockFits, Config.memSize]
  omega

/-- An instruction over a block: either the block fits and the effect is had, or the fault is taken (R58). -/
theorem withBlock_eq_next {len : Nat} {s t : State} {effect : State → State} :
    withBlock len s effect = .next t ↔
      (s.blockFits len = true ∧ t = effect s) ∨
      (s.blockFits len = false ∧ t = { s with fault := some (.dataOutOfBounds s.firstOutOfRange) }) := by
  unfold withBlock
  cases s.blockFits len <;> simp [raise, State.latch, eq_comm]

theorem withBlock_of_fits {len : Nat} {s : State} (h : s.blockFits len = true) (effect : State → State) :
    withBlock len s effect = .next (effect s) := by simp [withBlock, h]

theorem withBlock_of_not_fits {len : Nat} {s : State} (h : s.blockFits len = false) (effect : State → State) :
    withBlock len s effect = .next { s with fault := some (.dataOutOfBounds s.firstOutOfRange) } := by
  simp [withBlock, h, raise, State.latch]

theorem State.firstOutOfRange_toNat (s : State) : s.firstOutOfRange.toNat = max s.i.toNat 4096 := by
  have := s.i.isLt
  simp only [State.firstOutOfRange, Config.memSize, BitVec.toNat_ofNat]
  omega

/-- Popping: nothing from an empty stack, else the top entry (R25). -/
theorem State.pop_eq_some {s t : State} {w : Word} :
    s.pop = some (w, t) ↔ ∃ rest, s.stack = w :: rest ∧ t = { s with stack := rest } := by
  unfold State.pop
  cases s.stack with
  | nil => simp
  | cons a rest => simp [eq_comm]

theorem State.pop_eq_none {s : State} : s.pop = none ↔ s.stack = [] := by
  unfold State.pop
  cases s.stack <;> simp

/-- Loading registers: the first `n` come from memory, the others stay (R144). -/
theorem loadRegs_getElem (m : Memory) (base n : Nat) (v : Vector Byte 16) (k : Nat) (hk : k < 16) :
    (loadRegs m base n v)[k] = if k < n then m.read (base + k) else v[k] := by
  induction n with
  | zero => simp [loadRegs]
  | succ n ih =>
    rw [loadRegs, Vector.getElem_setIfInBounds, ih]
    by_cases h : n = k
    · subst h; simp
    · simp only [h, if_false]
      congr 1
      simp only [eq_iff_iff]
      omega

theorem State.regBlock_length (s : State) {n : Nat} (h : n ≤ 16) : (s.regBlock n).length = n := by
  simp [State.regBlock, h]

theorem State.regBlock_getElem (s : State) {n k : Nat} (hk : k < (s.regBlock n).length) (h16 : k < 16) :
    (s.regBlock n)[k] = s.reg ⟨k, h16⟩ := by
  simp [State.regBlock, State.reg]

/-- A word can be fetched exactly when both its bytes lie in memory (R57, R91). -/
theorem State.fetch_eq_some {s : State} {op : Word} :
    s.fetch = some op ↔ s.pc.toNat + 1 ≤ 4095 ∧ s.mem.readWord s.pc.toNat = op := by
  unfold State.fetch State.canFetch Config.memSize
  by_cases h : s.pc.toNat + 1 < 4096
  · simp [h]; omega
  · simp [h]; omega

theorem State.fetch_eq_none {s : State} : s.fetch = none ↔ 4095 < s.pc.toNat + 1 := by
  unfold State.fetch State.canFetch Config.memSize
  by_cases h : s.pc.toNat + 1 < 4096
  · simp [h]; omega
  · simp [h]; omega

end Sys2Proof.Machine
end

