-- ==== Sys2Proof/Laws/Exec.lean ====
section
/-! SUPPORT. The instructions that may fault or wait, each as one equation over the shared operations. -/

namespace Sys2Proof.Machine

theorem exec_ldBVx (x : RegIdx) (s : State) : exec (.ldBVx x) s =
    withBlock 3 s fun s => (s.setMem (s.mem.writeBlock (s.blockAddr 0) (bcdDigits (s.reg x)))).advance := rfl

theorem exec_ldMemVx (x : RegIdx) (s : State) : exec (.ldMemVx x) s =
    withBlock (x.val + 1) s fun s =>
      (s.setMem (s.mem.writeBlock (s.blockAddr 0) (s.regBlock (x.val + 1)))).advance := rfl

theorem exec_ldVxMem (x : RegIdx) (s : State) : exec (.ldVxMem x) s =
    withBlock (x.val + 1) s fun s =>
      State.advance { s with v := loadRegs s.mem (s.blockAddr 0) (x.val + 1) s.v } := rfl

/-- What a sprite of the bytes at I draws on the framebuffer, and whether it collides (R151). -/
def State.drawn (s : State) (x y : RegIdx) (n : Nat) : Framebuffer × Bool :=
  drawRows (s.startX x) (s.startY y) 0 (s.mem.readBlock (s.blockAddr 0) n) (s.fb, false)

theorem exec_drw (x y : RegIdx) (n : RowCount) (s : State) : exec (.drw x y n) s =
    withBlock n.val s fun s => ((s.setFb (s.drawn x y n.val).1).setFlag (s.drawn x y n.val).2).advance := rfl

/-- A call with room on the stack pushes and jumps (R103). -/
theorem exec_call_room (nnn : Addr12) {s : State} (h : s.stack.length < 16) :
    exec (.call nnn) s = .next ((s.push (s.pc + 2)).jump (zextAddr nnn)) :=
  if_neg (by simpa [State.sp, Config.stackDepth] using h)

theorem exec_call_full (nnn : Addr12) {s : State} (h : 16 ≤ s.stack.length) :
    exec (.call nnn) s = .next { s with fault := some .stackOverflow } :=
  if_pos (by simpa [State.sp, Config.stackDepth] using h)

theorem exec_ret_top {s : State} {top : Word} {rest : List Word} (h : s.stack = top :: rest) :
    exec .ret s = .next { s with stack := rest, pc := top } := by
  simp [exec, execRet, State.pop, h, State.jump]

theorem exec_ret_empty {s : State} (h : s.stack = []) : exec .ret s = .next { s with fault := some .stackUnderflow } := by
  simp [exec, execRet, State.pop, h, raise, State.latch]

theorem exec_ldVxK_key (x : RegIdx) {s : State} {code : Byte} (h : s.key = some code) :
    exec (.ldVxK x) s = .next (s.setReg x code).advance := by
  simp [exec, execLdVxK, h]

theorem exec_ldVxK_wait (x : RegIdx) {s : State} (h : s.key = none) : exec (.ldVxK x) s = .next s := by
  simp [exec, execLdVxK, h]

end Sys2Proof.Machine
end

