-- ==== Sys2Proof/Laws/Memory.lean ====
section
/-! SUPPORT. Memory: a read after a write, and that every memory operation keeps the canonical form. -/

namespace Sys2Proof.Machine.Memory

@[simp] theorem read_nil (a : Nat) : Memory.read [] a = 0 := rfl

theorem wfFrom_cons {lo a : Nat} {v : Byte} {m : Memory} :
    wfFrom lo ((a, v) :: m) = true ↔ lo ≤ a ∧ a < 4096 ∧ v ≠ 0 ∧ wfFrom (a + 1) m = true := by
  simp [wfFrom, unlisted, and_assoc]

theorem wfFrom_mono {lo lo' : Nat} {m : Memory} (h : wfFrom lo m = true) (hl : lo' ≤ lo) : wfFrom lo' m = true := by
  cases m with
  | nil => rfl
  | cons c m =>
    rw [wfFrom_cons] at h ⊢
    exact ⟨hl.trans h.1, h.2⟩

/-- Below the lowest address that may be listed, everything reads as an unlisted address does. -/
theorem read_below {lo a : Nat} {m : Memory} (h : wfFrom lo m = true) (ha : a < lo) : m.read a = 0 := by
  induction m generalizing lo with
  | nil => rfl
  | cons c m ih =>
    obtain ⟨h1, -, -, h4⟩ := wfFrom_cons.mp h
    rw [Memory.read, if_neg (by omega)]
    exact ih h4 (by omega)

theorem read_cons {lo addr a : Nat} {v : Byte} {m : Memory} (h : wfFrom lo m = true) (ha : addr < lo) :
    (Memory.cons addr v m).read a = if a = addr then v else m.read a := by
  unfold Memory.cons
  by_cases hv : v = unlisted
  · rw [if_pos hv]
    split
    · next e => rw [e, read_below h ha, hv]; rfl
    · rfl
  · rw [if_neg hv, Memory.read]
    simp only [eq_comm]

theorem wfFrom_cons_cell {lo addr : Nat} {v : Byte} {m : Memory} (h : wfFrom (addr + 1) m = true) (hl : lo ≤ addr)
    (hs : addr < 4096) : wfFrom lo (Memory.cons addr v m) = true := by
  unfold Memory.cons
  split
  · exact wfFrom_mono h (by omega)
  · next hv => exact wfFrom_cons.mpr ⟨hl, hs, hv, h⟩

/-- A read after a write (R60): the byte written at its address, every other byte as before. -/
theorem read_write {lo : Nat} {m : Memory} (h : wfFrom lo m = true) (addr a : Nat) (v : Byte) :
    (m.write addr v).read a = if a = addr then v else m.read a := by
  induction m generalizing lo with
  | nil => exact read_cons (lo := addr + 1) rfl (by omega)
  | cons c m ih =>
    obtain ⟨k, b⟩ := c
    obtain ⟨-, h2, h3, h4⟩ := wfFrom_cons.mp h
    rw [Memory.write]
    split
    · next hlt => exact read_cons (lo := k) (wfFrom_cons.mpr ⟨le_rfl, h2, h3, h4⟩) hlt
    · split
      · next e =>
        subst e
        rw [read_cons h4 (by omega), Memory.read]
        by_cases ha : a = addr
        · simp [ha]
        · simp [ha, Ne.symm ha]
      · next hne =>
        rw [Memory.read, Memory.read, ih h4]
        by_cases ha : k = a
        · have : a ≠ addr := by omega
          simp [ha, this]
        · simp [ha]

/-- Away from its address a write changes no byte, in any memory. -/
theorem read_write_other (m : Memory) {addr a : Nat} (v : Byte) (h : a ≠ addr) : (m.write addr v).read a = m.read a := by
  have hc : ∀ m : Memory, (Memory.cons addr v m).read a = m.read a := by
    intro m
    unfold Memory.cons
    split
    · rfl
    · rw [Memory.read, if_neg (Ne.symm h)]
  induction m with
  | nil => exact hc []
  | cons c m ih =>
    obtain ⟨k, b⟩ := c
    rw [Memory.write]
    split
    · exact hc _
    · split
      · next e => rw [hc, Memory.read, if_neg (by omega)]
      · rw [Memory.read, Memory.read, ih]

theorem wfFrom_write {lo addr : Nat} {m : Memory} (h : wfFrom lo m = true) (v : Byte) (hl : lo ≤ addr) (hs : addr < 4096) :
    wfFrom lo (m.write addr v) = true := by
  induction m generalizing lo with
  | nil => exact wfFrom_cons_cell rfl hl hs
  | cons c m ih =>
    obtain ⟨k, b⟩ := c
    obtain ⟨h1, h2, h3, h4⟩ := wfFrom_cons.mp h
    rw [Memory.write]
    split
    · next hlt => exact wfFrom_cons_cell (wfFrom_cons.mpr ⟨hlt, h2, h3, h4⟩) hl hs
    · split
      · next e => subst e; exact wfFrom_cons_cell h4 hl hs
      · exact wfFrom_cons.mpr ⟨h1, h2, h3, ih h4 (by omega)⟩

/-- A write inside memory keeps the canonical form. -/
theorem wf_write {m : Memory} (h : m.wf = true) {addr : Nat} (v : Byte) (hs : addr < 4096) : (m.write addr v).wf = true :=
  wfFrom_write h v (Nat.zero_le _) hs

/-- A block store that lies inside memory keeps the canonical form. -/
theorem wf_writeBlock {m : Memory} (h : m.wf = true) (base : Nat) (bs : List Byte) (hs : base + bs.length ≤ 4096) :
    (m.writeBlock base bs).wf = true := by
  induction bs generalizing m base with
  | nil => exact h
  | cons b bs ih =>
    rw [List.length_cons] at hs
    exact ih (wf_write h b (by omega)) (base + 1) (by omega)

/-- Outside its bytes a block store changes no byte, in any memory. -/
theorem read_writeBlock_other (m : Memory) {base a : Nat} (bs : List Byte) (h : a < base ∨ base + bs.length ≤ a) :
    (m.writeBlock base bs).read a = m.read a := by
  induction bs generalizing m base with
  | nil => rfl
  | cons b bs ih =>
    rw [List.length_cons] at h
    rw [Memory.writeBlock, ih _ (by omega), read_write_other _ _ (by omega)]

/-- A block store that lies inside memory puts byte `k` of the block at `base + k`. -/
theorem read_writeBlock {m : Memory} (h : m.wf = true) {base : Nat} (bs : List Byte) (hs : base + bs.length ≤ 4096)
    {k : Nat} (hk : k < bs.length) : (m.writeBlock base bs).read (base + k) = bs[k] := by
  induction bs generalizing m base k with
  | nil => simp at hk
  | cons b bs ih =>
    rw [List.length_cons] at hs hk
    rw [Memory.writeBlock]
    cases k with
    | zero =>
      rw [read_writeBlock_other _ _ (by omega), read_write h]
      simp
    | succ k =>
      have e : base + (k + 1) = base + 1 + k := by omega
      rw [e, ih (wf_write h b (by omega)) (by omega) (by omega)]
      rfl

/-- A word store keeps the canonical form and is read back (R52). -/
theorem wf_writeWord {m : Memory} (h : m.wf = true) {addr : Nat} (w : Word) (hs : addr + 1 < 4096) :
    (m.writeWord addr w).wf = true := wf_writeBlock h addr _ (by simp; omega)

@[simp] theorem readBlock_length (m : Memory) (base n : Nat) : (m.readBlock base n).length = n := by simp [readBlock]

@[simp] theorem readBlock_getElem (m : Memory) (base n k : Nat) (h : k < (m.readBlock base n).length) :
    (m.readBlock base n)[k] = m.read (base + k) := by simp [readBlock]

end Sys2Proof.Machine.Memory
end

