-- ==== Sys2Proof/Laws/HostOps.lean ====
section
/-! SUPPORT. The host's operations: what a tick does to a timer, what a load writes, field by field. -/

namespace Sys2Proof.Machine

/-- A tick takes one off and stops at zero (R173). -/
theorem tickDown_toNat (t : Byte) : (tickDown t).toNat = t.toNat - 1 := by
  unfold tickDown
  split
  · next h => simp [h]
  · next h =>
    have hn : t.toNat ≠ 0 := fun e => h (BitVec.eq_of_toNat_eq (by simpa using e))
    have := t.isLt
    rw [BitVec.toNat_sub]
    simp
    omega

@[simp] theorem wordsToBytes_length (ws : List Word) : (wordsToBytes ws).length = 2 * ws.length := by
  induction ws with
  | nil => rfl
  | cons w ws ih => simp [wordsToBytes, ih]; omega

/-- Word `k` contributes bytes `2k` and `2k + 1`, high byte first (R64). -/
theorem wordsToBytes_getElem (ws : List Word) (k : Nat) (h : k < ws.length) :
    (wordsToBytes ws)[2 * k]'(by simp; omega) = hiByte ws[k] ∧
      (wordsToBytes ws)[2 * k + 1]'(by simp; omega) = loByte ws[k] := by
  induction ws generalizing k with
  | nil => simp at h
  | cons w ws ih =>
    cases k with
    | zero => simp [wordsToBytes]
    | succ k => exact ih k (by simpa using h)

/-- The image of a program that fits is a memory in canonical form (R64). -/
theorem wf_programImage {ws : List Word} (h : ws.length ≤ 1792) : (programImage ws).wf = true :=
  Memory.wf_writeBlock rfl _ _ (by simp [Config.progBase]; omega)

/-- A load either changes nothing or leaves the loaded state (R172, R189). -/
theorem hostLoad_cases (ws : List Word) (s : State) :
    (1792 < ws.length ∧ hostLoad ws s = (s, .programTooLarge)) ∨
      (ws.length ≤ 1792 ∧ hostLoad ws s = (loaded ws s, .ok)) := by
  unfold hostLoad Config.maxProgramWords
  by_cases h : 1792 < ws.length
  · simp [h]
  · simp [h]; omega

end Sys2Proof.Machine
end

