-- ==== Sys2Proof/Laws/PerInstr.lean ====
section
/-! SUPPORT. Per instruction: its word lies in its row of the opcode table (R74), the fixed bits as the row fixes them. -/

namespace Sys2Proof.Laws.TableRowOfWord

/-- The word of `i` selects the row of `i`: `op AND mask = match` (R74). -/
def Statement (i : Instr) : Prop := encode i &&& (tableRow i).mask = (tableRow i).value

/-- Masking a packed word masks its two parts. -/
theorem packA_and (f g : BitVec 4) (r q : Addr12) : packA f r &&& packA g q = packA (f &&& g) (r &&& q) :=
  BitVec.and_append

theorem catNibbleByte_and (x y : BitVec 4) (r q : Byte) :
    catNibbleByte x r &&& catNibbleByte y q = catNibbleByte (x &&& y) (r &&& q) := BitVec.and_append

theorem catNibbles_and (x y r q : BitVec 4) : catNibbles x r &&& catNibbles y q = catNibbles (x &&& y) (r &&& q) :=
  BitVec.and_append

theorem and_0xF (f : BitVec 4) : f &&& 0xF#4 = f := BitVec.and_allOnes

theorem and_0xFF (b : Byte) : b &&& 0xFF#8 = b := BitVec.and_allOnes

/-- The top nibble alone is fixed. -/
theorem family_mask (f : BitVec 4) (r : Addr12) : packA f r &&& 0xF000#16 = packA f 0 := by
  rw [show (0xF000#16 : Word) = packA 0xF#4 0 by decide, packA_and, and_0xF]
  simp

/-- The top nibble and the low byte are fixed. -/
theorem byte_mask (f x : BitVec 4) (kk : Byte) :
    packA f (catNibbleByte x kk) &&& 0xF0FF#16 = packA f (catNibbleByte 0 kk) := by
  rw [show (0xF0FF#16 : Word) = packA 0xF#4 (catNibbleByte 0 0xFF#8) by decide, packA_and, catNibbleByte_and,
    and_0xF, and_0xFF]
  simp

/-- The top and the bottom nibble are fixed. -/
theorem nibble_mask (f x y n : BitVec 4) :
    packA f (catNibbleByte x (catNibbles y n)) &&& 0xF00F#16 = packA f (catNibbleByte 0 (catNibbles 0 n)) := by
  rw [show (0xF00F#16 : Word) = packA 0xF#4 (catNibbleByte 0 (catNibbles 0 0xF#4)) by decide, packA_and,
    catNibbleByte_and, catNibbles_and, and_0xF, and_0xF]
  simp

theorem cls : Statement .cls := rfl
theorem ret : Statement .ret := rfl
theorem sys (nnn : Addr12) : Statement (.sys nnn) := (family_mask _ _).trans rfl
theorem jp (nnn : Addr12) : Statement (.jp nnn) := (family_mask _ _).trans rfl
theorem call (nnn : Addr12) : Statement (.call nnn) := (family_mask _ _).trans rfl
theorem seVxKk (x : RegIdx) (kk : Byte) : Statement (.seVxKk x kk) := (family_mask _ _).trans rfl
theorem sneVxKk (x : RegIdx) (kk : Byte) : Statement (.sneVxKk x kk) := (family_mask _ _).trans rfl
theorem seVxVy (x y : RegIdx) (n : BitVec 4) : Statement (.seVxVy x y n) := (family_mask _ _).trans rfl
theorem ldVxKk (x : RegIdx) (kk : Byte) : Statement (.ldVxKk x kk) := (family_mask _ _).trans rfl
theorem addVxKk (x : RegIdx) (kk : Byte) : Statement (.addVxKk x kk) := (family_mask _ _).trans rfl
theorem ldVxVy (x y : RegIdx) : Statement (.ldVxVy x y) := (nibble_mask _ _ _ _).trans rfl
theorem orVxVy (x y : RegIdx) : Statement (.orVxVy x y) := (nibble_mask _ _ _ _).trans rfl
theorem andVxVy (x y : RegIdx) : Statement (.andVxVy x y) := (nibble_mask _ _ _ _).trans rfl
theorem xorVxVy (x y : RegIdx) : Statement (.xorVxVy x y) := (nibble_mask _ _ _ _).trans rfl
theorem addVxVy (x y : RegIdx) : Statement (.addVxVy x y) := (nibble_mask _ _ _ _).trans rfl
theorem sub (x y : RegIdx) : Statement (.sub x y) := (nibble_mask _ _ _ _).trans rfl
theorem shr (x y : RegIdx) : Statement (.shr x y) := (nibble_mask _ _ _ _).trans rfl
theorem subn (x y : RegIdx) : Statement (.subn x y) := (nibble_mask _ _ _ _).trans rfl
theorem shl (x y : RegIdx) : Statement (.shl x y) := (nibble_mask _ _ _ _).trans rfl
theorem sneVxVy (x y : RegIdx) (n : BitVec 4) : Statement (.sneVxVy x y n) := (family_mask _ _).trans rfl
theorem ldINnn (nnn : Addr12) : Statement (.ldINnn nnn) := (family_mask _ _).trans rfl
theorem jpV0 (nnn : Addr12) : Statement (.jpV0 nnn) := (family_mask _ _).trans rfl
theorem rnd (x : RegIdx) (kk : Byte) : Statement (.rnd x kk) := (family_mask _ _).trans rfl
theorem drw (x y : RegIdx) (n : RowCount) : Statement (.drw x y n) := (family_mask _ _).trans rfl
theorem skp (x : RegIdx) : Statement (.skp x) := (byte_mask _ _ _).trans rfl
theorem sknp (x : RegIdx) : Statement (.sknp x) := (byte_mask _ _ _).trans rfl
theorem ldVxDt (x : RegIdx) : Statement (.ldVxDt x) := (byte_mask _ _ _).trans rfl
theorem ldVxK (x : RegIdx) : Statement (.ldVxK x) := (byte_mask _ _ _).trans rfl
theorem ldDtVx (x : RegIdx) : Statement (.ldDtVx x) := (byte_mask _ _ _).trans rfl
theorem ldStVx (x : RegIdx) : Statement (.ldStVx x) := (byte_mask _ _ _).trans rfl
theorem addIVx (x : RegIdx) : Statement (.addIVx x) := (byte_mask _ _ _).trans rfl
theorem ldBVx (x : RegIdx) : Statement (.ldBVx x) := (byte_mask _ _ _).trans rfl
theorem ldMemVx (x : RegIdx) : Statement (.ldMemVx x) := (byte_mask _ _ _).trans rfl
theorem ldVxMem (x : RegIdx) : Statement (.ldVxMem x) := (byte_mask _ _ _).trans rfl

end Sys2Proof.Laws.TableRowOfWord
end

