-- ==== Sys2Proof/Laws/Step.lean ====
section
/-! SUPPORT. What a step can do, said once: the four cases of R96, and which word it runs. -/

namespace Sys2Proof.Machine

/-- The fetched word and the bytes at PC (R52, R91). -/
theorem Executes_iff {s : State} {i : Instr} :
    Executes s i ↔ s.fault = none ∧ ∃ op, s.fetch = some op ∧ decodeWord op = .ok i := by
  constructor
  · intro h
    exact ⟨h.running, _, State.fetch_eq_some.mpr ⟨h.inMemory, rfl⟩, decode_pair_eq_ok.mp h.decodes⟩
  · rintro ⟨hf, op, ho, hd⟩
    obtain ⟨hm, e⟩ := State.fetch_eq_some.mp ho
    subst e
    exact ⟨hf, hm, decode_pair_eq_ok.mpr hd⟩

/-- Everything a step that answers a next state can have done: run the instruction at PC, or take the fault of a
fetch out of range, or take the fault of a word that does not decode (R96). It never answers one when halted (R90). -/
theorem step_eq_next {s t : State} :
    step s = .next t ↔
      (∃ i, Executes s i ∧ exec i s = .next t) ∨
      (s.fault = none ∧ s.fetch = none ∧ t = { s with fault := some (.fetchOutOfBounds s.pc) }) ∨
      (s.fault = none ∧ ∃ op e, s.fetch = some op ∧ decodeWord op = .error e ∧
        t = { s with fault := some (.unsupportedOpcode op) }) := by
  simp only [Executes_iff]
  unfold step
  cases s.fault with
  | some f => simp
  | none =>
    cases s.fetch with
    | none => simp [raise_eq_next]
    | some op => cases h : decodeWord op <;> simp [raise_eq_next, h]

/-- A step answers `.fault` exactly when the latch holds that fault (R90). -/
theorem step_of_halted {s : State} {f : Fault} (h : s.fault = some f) : step s = .fault f := by
  simp [step, h]

theorem step_of_executes {s : State} {i : Instr} (h : Executes s i) : step s = exec i s := by
  obtain ⟨hf, op, ho, hd⟩ := Executes_iff.mp h
  simp [step, hf, ho, hd]

theorem afterStep_of_next {s t : State} (h : step s = .next t) : afterStep s = t := by simp [afterStep, h]

theorem afterStep_of_halted {s : State} (h : s.fault ≠ none) : afterStep s = s := by
  obtain ⟨f, hf⟩ := Option.ne_none_iff_exists'.mp h
  simp [afterStep, step_of_halted hf]

/-! ## The state that has a word placed for it to run (log 14) -/

theorem State.readyToFetch_canFetch (s : State) : s.readyToFetch.canFetch = true ∧ s.readyToFetch.fault = none := by
  unfold State.readyToFetch
  dsimp only
  split
  · next h => exact ⟨h, rfl⟩
  · exact ⟨by simp [State.canFetch, Config.progBase, Config.memSize], rfl⟩

theorem State.withFetchWord_fault (s : State) (nbits w : Nat) : (s.withFetchWord nbits w).fault = none :=
  (State.readyToFetch_canFetch s).2

end Sys2Proof.Machine
end

