-- ==== Sys2Proof/Tests/Slice0.lean ====
section
/-! SUPPORT. Tests of the model: ill-formed terms, words written out from the encodings, one-step vectors taken from
95_test_vectors.md (its id stands in each docstring), and a witness for the hypotheses of every obligation. -/

namespace Sys2Proof.Tests

open Sys2Proof Sys2Proof.Machine

/-! ## Small states -/

/-- After reset and a load of these words. -/
def prog (ws : List Word) : State := (hostLoad ws State.reset).1

/-- The state with these registers set. -/
def withRegs (rs : List (RegIdx × Byte)) (s : State) : State := rs.foldl (fun s r => s.setReg r.1 r.2) s

/-- The state with these bytes from an address upward. -/
def withBytes (addr : Nat) (bs : List Byte) (s : State) : State := s.setMem (s.mem.writeBlock addr bs)

/-- The state with one pixel set. -/
def withPixel (r : Fin 32) (c : Fin 64) (s : State) : State := s.setFb (s.fb.setPixel r c true)

/-- One step on one word at 512, after these registers are set. -/
def stepReg (w : Word) (rs : List (RegIdx × Byte)) : State := afterStep (withRegs rs (prog [w]))

/-- One step on one word at 512, with I and registers set and bytes placed at I. -/
def stepMem (w idx : Word) (rs : List (RegIdx × Byte)) (bs : List Byte) : State :=
  afterStep (withRegs rs ((withBytes idx.toNat bs (prog [w])).setI idx))

/-- Memory from an address upward. -/
def bytesAt (s : State) (addr n : Nat) : List Byte := s.mem.readBlock addr n

/-! ## WellFormed refuses each kind of ill-formed term -/

/-- `SYS 0x0E0` would be the word of CLS, `SYS 0x0EE` the word of RET; their neighbours are well formed (R77). -/
theorem test_wellformed_smoke :
    Instr.wellFormed (.sys 0x0E0) = false ∧ Instr.wellFormed (.sys 0x0EE) = false ∧
    Instr.wellFormed (.sys 0x0E1) = true ∧ Instr.wellFormed (.sys 0x0EF) = true ∧ Instr.wellFormed (.sys 0x000) = true := by
  decide

/-! ## Decoding: a word written out from the encoding of each row (R71, R74) -/

theorem test_decode_family_0 :
    decodeWord 0x00E0 = .ok .cls ∧ decodeWord 0x00EE = .ok .ret ∧ decodeWord 0x0000 = .ok (.sys 0x000) ∧
    decodeWord 0x00E1 = .ok (.sys 0x0E1) ∧ decodeWord 0x00EF = .ok (.sys 0x0EF) ∧ decodeWord 0x0EE0 = .ok (.sys 0xEE0) ∧
    decodeWord 0x0FFF = .ok (.sys 0xFFF) := by decide

theorem test_decode_families_1_to_7 :
    decodeWord 0x1ABC = .ok (.jp 0xABC) ∧ decodeWord 0x2208 = .ok (.call 0x208) ∧
    decodeWord 0x3A05 = .ok (.seVxKk 10 0x05) ∧ decodeWord 0x4A07 = .ok (.sneVxKk 10 0x07) ∧
    decodeWord 0x5123 = .ok (.seVxVy 1 2 0x3) ∧ decodeWord 0x6FAB = .ok (.ldVxKk 15 0xAB) ∧
    decodeWord 0x70FF = .ok (.addVxKk 0 0xFF) := by decide

theorem test_decode_family_8 :
    decodeWord 0x8120 = .ok (.ldVxVy 1 2) ∧ decodeWord 0x8121 = .ok (.orVxVy 1 2) ∧
    decodeWord 0x8122 = .ok (.andVxVy 1 2) ∧ decodeWord 0x8123 = .ok (.xorVxVy 1 2) ∧
    decodeWord 0x8AB4 = .ok (.addVxVy 10 11) ∧ decodeWord 0x8125 = .ok (.sub 1 2) ∧
    decodeWord 0x81F6 = .ok (.shr 1 15) ∧ decodeWord 0x8127 = .ok (.subn 1 2) ∧
    decodeWord 0x812E = .ok (.shl 1 2) := by decide

theorem test_decode_families_9_to_D :
    decodeWord 0x912F = .ok (.sneVxVy 1 2 0xF) ∧ decodeWord 0xA123 = .ok (.ldINnn 0x123) ∧
    decodeWord 0xB300 = .ok (.jpV0 0x300) ∧ decodeWord 0xC10F = .ok (.rnd 1 0x0F) ∧
    decodeWord 0xD01F = .ok (.drw 0 1 15) := by decide

theorem test_decode_families_E_F :
    decodeWord 0xEA9E = .ok (.skp 10) ∧ decodeWord 0xEAA1 = .ok (.sknp 10) ∧
    decodeWord 0xFA07 = .ok (.ldVxDt 10) ∧ decodeWord 0xFA0A = .ok (.ldVxK 10) ∧
    decodeWord 0xFA15 = .ok (.ldDtVx 10) ∧ decodeWord 0xFA18 = .ok (.ldStVx 10) ∧
    decodeWord 0xFA1E = .ok (.addIVx 10) ∧ decodeWord 0xFA33 = .ok (.ldBVx 10) ∧
    decodeWord 0xFA55 = .ok (.ldMemVx 10) ∧ decodeWord 0xFA65 = .ok (.ldVxMem 10) := by decide

/-- T-ENC-7. -/
theorem test_illegal_family_8 :
    decodeWord 0x8018 = .error (.unsupportedOpcode 0x8018) ∧
    decodeWord 0x8019 = .error (.unsupportedOpcode 0x8019) ∧
    decodeWord 0x801A = .error (.unsupportedOpcode 0x801A) ∧
    decodeWord 0x801B = .error (.unsupportedOpcode 0x801B) ∧
    decodeWord 0x801C = .error (.unsupportedOpcode 0x801C) ∧
    decodeWord 0x801D = .error (.unsupportedOpcode 0x801D) ∧
    decodeWord 0x801F = .error (.unsupportedOpcode 0x801F) := by decide

/-- T-ENC-8, and the word that R76 names. -/
theorem test_illegal_family_E :
    decodeWord 0xE09F = .error (.unsupportedOpcode 0xE09F) ∧
    decodeWord 0xE000 = .error (.unsupportedOpcode 0xE000) ∧
    decodeWord 0xE0A0 = .error (.unsupportedOpcode 0xE0A0) ∧
    decodeWord 0xE19D = .error (.unsupportedOpcode 0xE19D) ∧
    decodeWord 0xE1AE = .error (.unsupportedOpcode 0xE1AE) := by decide

/-- T-ENC-9. -/
theorem test_illegal_family_F :
    decodeWord 0xF000 = .error (.unsupportedOpcode 0xF000) ∧
    decodeWord 0xF029 = .error (.unsupportedOpcode 0xF029) ∧
    decodeWord 0xF030 = .error (.unsupportedOpcode 0xF030) ∧
    decodeWord 0xF075 = .error (.unsupportedOpcode 0xF075) ∧
    decodeWord 0xF085 = .error (.unsupportedOpcode 0xF085) ∧
    decodeWord 0xF0FF = .error (.unsupportedOpcode 0xF0FF) ∧
    decodeWord 0xF056 = .error (.unsupportedOpcode 0xF056) ∧
    decodeWord 0xF01F = .error (.unsupportedOpcode 0xF01F) := by decide

/-- Bytes come in memory order, high byte first, and what follows an instruction is given back (R52, R70). -/
theorem test_decode_bytes :
    decode [0x60, 0x07, 0x12] = .ok (.ldVxKk 0 0x07, [0x12]) ∧ decode [0x60] = .error .truncated ∧
    decodeTableWord 16 0x8AB4 = some (.addVxVy 10 11) ∧ decodeTableWord 16 0xF029 = none := by decide

/-- Words encode as written in the table (R74). -/
theorem test_encode :
    encode (.addVxVy 10 11) = 0x8AB4 ∧ encode (.drw 0 1 2) = 0xD012 ∧ encode (.ldVxMem 1) = 0xF165 ∧
    encodeBytes (.jp 0x204) = [0x12, 0x04] := by decide

/-! ## One step of each instruction -/

/-- T-CF-1. -/
theorem test_sys : (stepReg 0x0123 []).pc = 0x202 ∧ (stepReg 0x0123 []).fault = none := by decide

/-- T-DSP-1, at two corners; VF is not written. -/
theorem test_cls_blanks :
    Framebuffer.pixel (afterStep (withRegs [(15, 7)] (withPixel 31 63 (prog [0x00E0])))).fb 31 63 = false ∧
    (afterStep (withRegs [(15, 7)] (prog [0x00E0]))).reg 15 = 7 := by decide

/-- T-CF-6. -/
theorem test_ret_pops_top :
    (afterStep ((prog [0x00EE]).push 0x0204 |>.push 0x0300)).pc = 0x0300 ∧
    (afterStep ((prog [0x00EE]).push 0x0204 |>.push 0x0300)).stack = [0x0204] := by decide

/-- T-CF-5. -/
theorem test_ret_underflow :
    (stepReg 0x00EE []).fault = some .stackUnderflow ∧ (stepReg 0x00EE []).pc = 0x200 := by decide

/-- T-CF-4. -/
theorem test_call_pushes_next : (stepReg 0x2ABC []).stack = [0x0202] ∧ (stepReg 0x2ABC []).pc = 0x0ABC := by decide

/-- A prog with sixteen return addresses on the stack. -/
def fullStack (w : Word) : State := { prog [w] with stack := List.replicate 16 0x0202 }

/-- The last step of T-CF-17. -/
theorem test_call_overflow :
    (afterStep (fullStack 0x2200)).fault = some .stackOverflow ∧ (afterStep (fullStack 0x2200)).pc = 0x200 ∧
    (afterStep (fullStack 0x2200)).stack.length = 16 := by decide

/-- T-CF-3. -/
theorem test_jp : (stepReg 0x1ABC []).pc = 0x0ABC := by decide

/-- T-CF-16 and T-CF-15: the sum does not wrap. -/
theorem test_jp_v0 : (stepReg 0xBFFF [(0, 0xFF)]).pc = 0x10FE ∧ (stepReg 0xB300 [(0, 0x04)]).pc = 0x0304 := by decide

/-- T-CF-7, T-CF-8. -/
theorem test_se_kk : (stepReg 0x3A05 [(10, 5)]).pc = 0x204 ∧ (stepReg 0x3A05 [(10, 6)]).pc = 0x202 := by decide

/-- T-CF-11, T-CF-12. -/
theorem test_sne_kk : (stepReg 0x4A05 [(10, 5)]).pc = 0x202 ∧ (stepReg 0x4A05 [(10, 6)]).pc = 0x204 := by decide

/-- T-CF-9, T-CF-10. -/
theorem test_se_vy :
    (stepReg 0x5123 [(1, 7), (2, 7)]).pc = 0x204 ∧ (stepReg 0x5120 [(1, 3), (2, 4)]).pc = 0x202 := by decide

/-- T-CF-13, T-CF-14. -/
theorem test_sne_vy :
    (stepReg 0x9125 [(1, 3), (2, 4)]).pc = 0x204 ∧ (stepReg 0x9120 [(1, 3), (2, 3)]).pc = 0x202 := by decide

/-- T-ALU-1. -/
theorem test_ld_kk : (stepReg 0x6FAB []).reg 15 = 0xAB ∧ (stepReg 0x6FAB []).pc = 0x202 := by decide

/-- T-ALU-3. -/
theorem test_add_kk_wraps :
    (stepReg 0x7001 [(0, 0xFF), (15, 7)]).reg 0 = 0 ∧ (stepReg 0x7001 [(0, 0xFF), (15, 7)]).reg 15 = 7 := by decide

/-- T-ALU-4. -/
theorem test_ld_vy :
    (stepReg 0x8120 [(1, 1), (2, 0x99)]).reg 1 = 0x99 ∧ (stepReg 0x8120 [(1, 1), (2, 0x99)]).reg 2 = 0x99 := by decide

/-- T-ALU-5. -/
theorem test_or :
    (stepReg 0x8011 [(0, 0xA5), (1, 0x5A), (15, 9)]).reg 0 = 0xFF ∧
    (stepReg 0x8011 [(0, 0xA5), (1, 0x5A), (15, 9)]).reg 15 = 9 := by decide

/-- T-ALU-5. -/
theorem test_and :
    (stepReg 0x8012 [(0, 0xA5), (1, 0x0F), (15, 9)]).reg 0 = 0x05 ∧
    (stepReg 0x8012 [(0, 0xA5), (1, 0x0F), (15, 9)]).reg 15 = 9 := by decide

/-- T-ALU-5, T-ALU-6. -/
theorem test_xor :
    (stepReg 0x8013 [(0, 0xA5), (1, 0xFF), (15, 9)]).reg 0 = 0x5A ∧ (stepReg 0x8003 [(0, 0x3C)]).reg 0 = 0 := by decide

/-- T-ALU-7, T-ALU-9. -/
theorem test_add_carry :
    (stepReg 0x8014 [(0, 0xFF), (1, 1)]).reg 0 = 0 ∧ (stepReg 0x8014 [(0, 0xFF), (1, 1)]).reg 15 = 1 ∧
    (stepReg 0x8014 [(0, 0x80), (1, 0x7F), (15, 1)]).reg 0 = 0xFF ∧
    (stepReg 0x8014 [(0, 0x80), (1, 0x7F), (15, 1)]).reg 15 = 0 := by decide

/-- T-ALU-11b, T-ALU-12. -/
theorem test_add_vf_operand :
    (stepReg 0x8F14 [(15, 0x10), (1, 2)]).reg 15 = 0 ∧
    (stepReg 0x80F4 [(0, 0x10), (15, 1)]).reg 0 = 0x11 ∧ (stepReg 0x80F4 [(0, 0x10), (15, 1)]).reg 15 = 0 := by decide

/-- T-ALU-13, T-ALU-15. -/
theorem test_sub :
    (stepReg 0x8015 [(0, 0x10), (1, 0x20)]).reg 0 = 0xF0 ∧ (stepReg 0x8015 [(0, 0x10), (1, 0x20), (15, 1)]).reg 15 = 0 ∧
    (stepReg 0x8015 [(0, 0x33), (1, 0x33)]).reg 0 = 0 ∧ (stepReg 0x8015 [(0, 0x33), (1, 0x33)]).reg 15 = 1 := by decide

/-- T-ALU-17. -/
theorem test_sub_flag_wins : (stepReg 0x8F15 [(15, 5), (1, 3)]).reg 15 = 1 := by decide

/-- T-ALU-18. -/
theorem test_shr :
    (stepReg 0x8016 [(0, 5), (1, 0xEE)]).reg 0 = 2 ∧ (stepReg 0x8016 [(0, 5), (1, 0xEE)]).reg 15 = 1 ∧
    (stepReg 0x8016 [(0, 5), (1, 0xEE)]).reg 1 = 0xEE := by decide

/-- T-ALU-20b. -/
theorem test_shr_flag_wins : (stepReg 0x8F06 [(15, 2)]).reg 15 = 0 := by decide

/-- T-ALU-21, T-ALU-22. -/
theorem test_subn :
    (stepReg 0x8017 [(0, 0x20), (1, 0x10)]).reg 0 = 0xF0 ∧
    (stepReg 0x8017 [(0, 0x20), (1, 0x10), (15, 1)]).reg 15 = 0 ∧
    (stepReg 0x8017 [(0, 0x10), (1, 0x20)]).reg 0 = 0x10 ∧ (stepReg 0x8017 [(0, 0x10), (1, 0x20)]).reg 15 = 1 := by decide

/-- T-ALU-24, T-ALU-25. -/
theorem test_shl :
    (stepReg 0x801E [(0, 0x81)]).reg 0 = 2 ∧ (stepReg 0x801E [(0, 0x81)]).reg 15 = 1 ∧
    (stepReg 0x801E [(0, 0x7F)]).reg 0 = 0xFE ∧ (stepReg 0x801E [(0, 0x7F), (15, 1)]).reg 15 = 0 := by decide

/-- T-ALU-26. -/
theorem test_shl_flag_wins : (stepReg 0x8F0E [(15, 0x80)]).reg 15 = 1 := by decide

/-- T-ALU-27: the byte drawn is the oldest one supplied. -/
theorem test_rnd :
    (afterStep (supplyRandom 0x01 (supplyRandom 0xA7 (prog [0xC10F])))).reg 1 = 7 ∧
    (afterStep (supplyRandom 0x01 (supplyRandom 0xA7 (prog [0xC10F])))).rndSupply = [0x01] := by decide

/-- T-MEM-1. -/
theorem test_ld_i : (stepReg 0xA123 []).i = 0x0123 := by decide

/-- T-MEM-2b. -/
theorem test_add_i_wraps :
    (stepMem 0xF01E 0xFFFF [(0, 1), (15, 7)] []).i = 0 ∧ (stepMem 0xF01E 0xFFFF [(0, 1), (15, 7)] []).reg 15 = 7 := by decide

/-- T-MEM-3. -/
theorem test_bcd :
    bytesAt (stepMem 0xF033 0x300 [(0, 0xFF)] [0, 0, 0, 0xEE]) 0x300 4 = [2, 5, 5, 0xEE] ∧
    (stepMem 0xF033 0x300 [(0, 0xFF)] []).i = 0x300 := by decide

/-- T-MEM-6b. -/
theorem test_bcd_out_of_bounds :
    (stepMem 0xF033 0x0FFE [(0, 0x7B)] []).fault = some (.dataOutOfBounds 0x1000) ∧
    bytesAt (stepMem 0xF033 0x0FFE [(0, 0x7B)] []) 0xFFE 2 = [0, 0] := by decide

/-- T-MEM-7. -/
theorem test_store_regs :
    bytesAt (stepMem 0xF155 0x300 [(0, 0x62), (1, 0x77), (2, 0x99)] []) 0x300 3 = [0x62, 0x77, 0] := by decide

/-- T-MEM-11. -/
theorem test_store_regs_out_of_bounds :
    (stepMem 0xF055 0xFFFF [(0, 1)] []).fault = some (.dataOutOfBounds 0xFFFF) := by decide

/-- T-MEM-10. -/
theorem test_load_regs :
    (stepMem 0xF265 0x300 [(0, 9)] [0, 1, 5, 0xEE]).reg 0 = 0 ∧ (stepMem 0xF265 0x300 [] [0, 1, 5, 0xEE]).reg 2 = 5 ∧
    (stepMem 0xF265 0x300 [] [0, 1, 5, 0xEE]).reg 3 = 0 := by decide

/-- T-MEM-10b. -/
theorem test_load_regs_out_of_bounds :
    (stepMem 0xF065 0x1000 [] []).fault = some (.dataOutOfBounds 0x1000) := by decide

/-- The end state of T-DSP-5: both axes wrap. -/
def drawnWrapped : State := stepMem 0xD012 0x300 [(0, 0x3C), (1, 0x1F)] [0xFF, 0x81]

/-- T-DSP-5. -/
theorem test_drw_wraps :
    (∀ c ∈ [60, 61, 62, 63, 0, 1, 2, 3], drawnWrapped.fb.pixel 31 c = true) ∧ drawnWrapped.fb.pixel 31 4 = false ∧
    drawnWrapped.fb.pixel 0 60 = true ∧ drawnWrapped.fb.pixel 0 3 = true ∧ drawnWrapped.fb.pixel 0 61 = false ∧
    drawnWrapped.reg 15 = 0 := by decide

/-- T-DSP-6 and T-DSP-11: a collision, and coordinates from the old VF. -/
theorem test_drw_collision_and_vf :
    (afterStep (withPixel 0 0 ((withBytes 0x300 [0xC0] (prog [0xD011])).setI 0x300))).reg 15 = 1 ∧
    (stepMem 0xDF01 0x300 [(15, 5), (0, 2)] [0x80]).fb.pixel 2 5 = true := by decide

/-- T-KEY-3, T-KEY-5, T-KEY-1. -/
theorem test_skp :
    (afterStep (setKey (some 0x0A) (withRegs [(0, 0x0A)] (prog [0xE09E])))).pc = 0x204 ∧
    (afterStep (setKey (some 0x0A) (withRegs [(0, 0x1A)] (prog [0xE09E])))).pc = 0x202 ∧
    (stepReg 0xE09E []).pc = 0x202 := by decide

/-- T-KEY-4, T-KEY-6, T-KEY-2. -/
theorem test_sknp :
    (afterStep (setKey (some 0x0A) (withRegs [(0, 0x0A)] (prog [0xE0A1])))).pc = 0x202 ∧
    (afterStep (setKey (some 0x0A) (withRegs [(0, 0x1A)] (prog [0xE0A1])))).pc = 0x204 ∧
    (stepReg 0xE0A1 []).pc = 0x204 := by decide

/-- T-KEY-7. -/
theorem test_ld_k_waits :
    stepStatus (prog [0xF10A]) = .waitingForKey ∧ (stepReg 0xF10A []).pc = 0x200 := by decide

/-- T-KEY-8. -/
theorem test_ld_k_takes_key :
    (afterStep (setKey (some 0xFF) (prog [0xF10A]))).reg 1 = 0xFF ∧
    (afterStep (setKey (some 0xFF) (prog [0xF10A]))).key = some 0xFF ∧
    stepStatus (setKey (some 0xFF) (prog [0xF10A])) = .continue_ := by decide

/-- T-KEY-9. -/
theorem test_ld_vx_dt : (afterStep ((prog [0xF107]).setDt 0x2A)).reg 1 = 0x2A := by decide

/-- T-KEY-10. -/
theorem test_ld_dt_vx : (stepReg 0xF115 [(1, 0x10)]).dt = 0x10 ∧ (stepReg 0xF115 [(1, 0x10)]).st = 0 := by decide

/-- T-KEY-11. -/
theorem test_ld_st_vx : (stepReg 0xF118 [(1, 3)]).st = 3 ∧ (stepReg 0xF118 [(1, 3)]).dt = 0 := by decide

/-! ## The step and the host operations -/

/-- T-STEP-3, T-STEP-2's second step: the range check and an odd address. -/
theorem test_fetch :
    (afterStep ((prog []).jump 0x0FFF)).fault = some (.fetchOutOfBounds 0x0FFF) ∧
    (afterStep ((prog [0x1203, 0x0060, 0x0700]).jump 0x203)).reg 0 = 7 ∧
    (afterStep ((prog [0x1203, 0x0060, 0x0700]).jump 0x203)).pc = 0x205 := by decide

/-- T-ALU-30, T-STEP-7: an illegal word, and a halted core. -/
theorem test_halt :
    stepStatus (prog [0x8018]) = .fault (.unsupportedOpcode 0x8018) ∧ (stepReg 0x8018 []).pc = 0x200 ∧
    stepStatus ((prog [0x6007]).latch .stackUnderflow) = .fault .stackUnderflow ∧
    (afterStep ((prog [0x6007]).latch .stackUnderflow)).reg 0 = 0 := by decide

/-- T-HOST-1, T-HOST-2, T-HOST-10. -/
theorem test_load :
    bytesAt (prog [0x1234, 0xABCD]) 0x1FE 8 = [0, 0, 0x12, 0x34, 0xAB, 0xCD, 0, 0] ∧
    bytesAt (hostLoad [0x00E0] (prog [0x1234, 0xABCD])).1 0x200 4 = [0x00, 0xE0, 0, 0] ∧
    (hostLoad [0x6001] ((prog []).latch (.unsupportedOpcode 0xF029))).1.fault = none := by decide

/-- T-HOST-6, T-HOST-7. -/
theorem test_tick :
    (tickTimers ((prog []).setDt 1)).dt = 0 ∧ (tickTimers ((prog []).setDt 1)).st = 0 ∧
    (tickTimers (((prog []).setDt 0xFF).setSt 2)).dt = 0xFE ∧ (tickTimers (((prog []).setDt 0xFF).setSt 2)).st = 1 := by decide

/-- The codes and the info of R181. -/
theorem test_fault_port :
    [Fault.fetchOutOfBounds 0xFFF, .dataOutOfBounds 0x1000, .stackUnderflow, .stackOverflow, .unsupportedOpcode 0xF029].map
        (fun f => (f.code.toNat, f.info.toNat)) =
      [(1, 0xFFF), (1, 0x1000), (2, 0), (3, 0), (4, 0xF029)] := by decide

/-! ## Witnesses: concrete states and operands that meet the hypotheses of the obligations -/

/-- A running state with a word at the last address a word can be fetched from. -/
def atTop (hi lo : Byte) : State := (withBytes 4094 [hi, lo] State.reset).jump 4094

/-- StepRunsDecodedInstruction. -/
theorem test_witness_executes : Executes (atTop 0x60 0x09) (.ldVxKk 0 0x09) := ⟨rfl, by decide, by decide⟩

/-- StoredEncodingRuns, at PC 4094. -/
theorem test_witness_stored_encoding :
    WellFormed (.sys 0x0E1) ∧ (atTop 0x00 0xE1).fault = none ∧ (atTop 0x00 0xE1).pc.toNat + 1 ≤ 4095 ∧
    (Memory.read (atTop 0x00 0xE1).mem (atTop 0x00 0xE1).pc.toNat).toNat = (encode (.sys 0x0E1)).toNat / 256 ∧
    (Memory.read (atTop 0x00 0xE1).mem ((atTop 0x00 0xE1).pc.toNat + 1)).toNat = (encode (.sys 0x0E1)).toNat % 256 := by
  decide

/-- StepChecksInOrder: a latched fault, PC 4095, an illegal word at PC 4094. -/
theorem test_witness_step_checks :
    ((atTop 0 0).latch .stackOverflow).fault = some .stackOverflow ∧
    (State.reset.jump 4095).fault = none ∧ 4095 < (State.reset.jump 4095).pc.toNat + 1 ∧
    (atTop 0xF0 0x29).fault = none ∧ (atTop 0xF0 0x29).pc.toNat + 1 ≤ 4095 ∧
    (0xF029#16).toNat = 256 * (Memory.read (atTop 0xF0 0x29).mem (atTop 0xF0 0x29).pc.toNat).toNat +
      (Memory.read (atTop 0xF0 0x29).mem ((atTop 0xF0 0x29).pc.toNat + 1)).toNat ∧
    IllegalWord 0xF029 := by unfold IllegalWord; decide

/-- FetchIsBigEndian, at the lowest and the highest address. -/
theorem test_witness_fetch : (State.reset.jump 0).pc.toNat + 1 ≤ 4095 ∧ (State.reset.jump 4094).pc.toNat + 1 ≤ 4095 := by
  decide

/-- StepStatusIsOneOfThree: each side of each equivalence is met by some state. -/
theorem test_witness_status :
    stepStatus (prog [0xF10A]) = .waitingForKey ∧
    (afterStep (prog [0x00EE])).fault = some .stackUnderflow ∧
    stepStatus (prog [0x6007]) = .continue_ := by decide

/-- FaultsArePrecise: a step that takes a fault. -/
theorem test_witness_fault_taken : (prog [0x00EE]).fault = none ∧
    ∃ t, step (prog [0x00EE]) = .next t ∧ t.fault = some .stackUnderflow := ⟨rfl, _, rfl, rfl⟩

/-- OnlyTheseInstructionsFault: each disjunct is met, at the first value that faults. -/
theorem test_witness_each_fault :
    (∃ t, exec (.ldVxKk 0 1) State.reset = .next t ∧ t.fault = none) ∧
    (∃ t, exec .ret State.reset = .next t ∧ t.fault = some .stackUnderflow) ∧
    (∃ t, exec (.call 0) (fullStack 0) = .next t ∧ t.fault = some .stackOverflow) ∧
    (∃ t, exec (.drw 0 0 1) (State.reset.setI 4096) = .next t ∧ t.fault = some (.dataOutOfBounds 4096)) ∧
    (∃ t, exec (.ldBVx 0) (State.reset.setI 4094) = .next t ∧ t.fault = some (.dataOutOfBounds 4096)) ∧
    (∃ t, exec (.ldMemVx 1) (State.reset.setI 4095) = .next t ∧ t.fault = some (.dataOutOfBounds 4096)) ∧
    (∃ t, exec (.ldVxMem 0) (State.reset.setI 65535) = .next t ∧ t.fault = some (.dataOutOfBounds 65535)) :=
  ⟨⟨_, rfl, rfl⟩, ⟨_, rfl, rfl⟩, ⟨_, rfl, rfl⟩, ⟨_, rfl, rfl⟩, ⟨_, rfl, rfl⟩, ⟨_, rfl, rfl⟩, ⟨_, rfl, rfl⟩⟩

/-- HaltLastsUntilResetOrLoad: every kind of event it allows. -/
theorem test_witness_halted_events :
    (State.reset.latch .stackUnderflow).fault = some .stackUnderflow ∧
    ∀ e ∈ [Event.step, .tickTimers, .setKey (some 3), .supplyRandom 1, .readFramebuffer],
      e ≠ .reset ∧ ∀ ws, e ≠ .load ws := by
  refine ⟨rfl, ?_⟩
  intro e he
  simp only [List.mem_cons, List.not_mem_nil, or_false] at he
  rcases he with rfl | rfl | rfl | rfl | rfl <;> exact ⟨fun h => Event.noConfusion h, fun _ h => Event.noConfusion h⟩

/-- RandomOnlyThroughRnd. -/
theorem test_witness_not_rnd : ∀ x kk, Instr.cls ≠ .rnd x kk := fun _ _ h => Instr.noConfusion h

/-- OnlyNamedPartsChange and OnlyNamedRegistersChange: each part is changed by some instruction. -/
theorem test_witness_parts_change :
    (∃ t, exec (.ldINnn 1) State.reset = .next t ∧ t.i ≠ State.reset.i) ∧
    (∃ t, exec (.call 1) State.reset = .next t ∧ t.stack ≠ State.reset.stack) ∧
    (∃ t, exec (.ldDtVx 0) (State.reset.setReg 0 1) = .next t ∧ t.dt ≠ (State.reset.setReg 0 1).dt) ∧
    (∃ t, exec (.ldStVx 0) (State.reset.setReg 0 1) = .next t ∧ t.st ≠ (State.reset.setReg 0 1).st) ∧
    (∃ t, exec .cls (withPixel 0 0 State.reset) = .next t ∧
      Framebuffer.pixel t.fb 0 0 ≠ Framebuffer.pixel (withPixel 0 0 State.reset).fb 0 0) ∧
    (∃ t, exec (.ldBVx 0) (State.reset.setReg 0 1) = .next t ∧
      Memory.read t.mem 2 ≠ Memory.read (State.reset.setReg 0 1).mem 2) ∧
    (∃ t, exec (.ldVxKk 3 1) State.reset = .next t ∧ t.reg 3 ≠ State.reset.reg 3) :=
  ⟨⟨_, rfl, by decide⟩, ⟨_, rfl, by decide⟩, ⟨_, rfl, by decide⟩, ⟨_, rfl, by decide⟩, ⟨_, rfl, by decide⟩,
    ⟨_, rfl, by decide⟩, ⟨_, rfl, by decide⟩⟩

/-- DecodeOfEncode, EncodeOfDecode, IllegalWordsExactly: neighbours on both sides of each rule. -/
theorem test_witness_encoding :
    WellFormed (.sys 0x0DF) ∧ WellFormed (.drw 15 15 15) ∧ decodeWord 0x00E1 = .ok (.sys 0x0E1) ∧
    IllegalWord 0x8008 ∧ IllegalWord 0xFFFF ∧ ¬ IllegalWord 0x8FFE ∧ ¬ IllegalWord 0xEFA1 := by
  unfold IllegalWord
  refine ⟨by decide, by decide, by decide, by decide, by decide, by decide, by decide⟩

/-- AddWithCarryResult, SubtractResult, ShiftResult, DrawTwiceRestores: a destination other than VF, and VF itself. -/
theorem test_witness_not_vf : (14 : RegIdx) ≠ 15 ∧ ¬ (15 : RegIdx) ≠ 15 := by decide

/-- RandomResult: a byte supplied, and none. -/
theorem test_witness_random :
    (supplyRandom 0xFF State.reset).rndSupply = 0xFF :: [] ∧ State.reset.rndSupply = [] := by decide

/-- BcdStoreResult, StoreRegistersResult, LoadRegistersResult, StoreThenLoadRestores: the last bytes of memory. -/
theorem test_witness_block_fits :
    Memory.wf (State.reset.setI 4093).mem = true ∧ (State.reset.setI 4093).i.toNat + 2 ≤ 4095 ∧
    Memory.wf (State.reset.setI 4080).mem = true ∧ (State.reset.setI 4080).i.toNat + (15 : RegIdx).val ≤ 4095 ∧
    (State.reset.setI 4095).i.toNat + (0 : RegIdx).val ≤ 4095 ∧ (0 : RegIdx) ≤ 15 := by decide

/-- BlockOutOfRangeFaults: the first I out of range for each form, and the largest I. -/
theorem test_witness_block_out_of_range :
    4095 < (State.reset.setI 4094).i.toNat + 2 ∧ 4095 < (State.reset.setI 4081).i.toNat + (15 : RegIdx).val ∧
    4095 < (State.reset.setI 4096).i.toNat + (0 : RegIdx).val ∧
    0 < (15 : RowCount).val ∧ 4095 < (State.reset.setI 4082).i.toNat + (15 : RowCount).val - 1 ∧
    4095 < (State.reset.setI 65535).i.toNat + (1 : RowCount).val - 1 := by decide

/-- StoreSeenByNextFetch, with the addresses of program P5. -/
theorem test_witness_store_over_next :
    Memory.wf ((State.reset.jump 0x206).setI 0x208).mem = true ∧
    ((State.reset.jump 0x206).setI 0x208).i.toNat + (1 : RegIdx).val ≤ 4095 ∧
    (1 : RegIdx).val = (0 : RegIdx).val + 1 ∧ (1 : RegIdx) ≤ 1 ∧
    ((State.reset.jump 0x206).setI 0x208).pc.toNat + 2 =
      ((State.reset.jump 0x206).setI 0x208).i.toNat + (0 : RegIdx).val := by decide

/-- A state with a sprite byte 0x80 at I = 4095. -/
def spriteAtTop : State := (withBytes 4095 [0x80] State.reset).setI 4095

/-- DrawXorsSprite and DrawTwiceRestores: n = 0 with any I, and a sprite that ends at address 4095; a pixel it covers and
one it does not; a covered pixel that was 1, and none. -/
theorem test_witness_draw :
    ((0 : RowCount).val = 0 ∨ (State.reset.setI 65535).i.toNat + (0 : RowCount).val - 1 ≤ 4095) ∧
    ((1 : RowCount).val = 0 ∨ spriteAtTop.i.toNat + (1 : RowCount).val - 1 ≤ 4095) ∧
    SpriteOver spriteAtTop 0 1 1 0 0 ∧ ¬ SpriteOver spriteAtTop 0 1 0 5 5 ∧
    Framebuffer.pixel (withPixel 0 0 spriteAtTop).fb 0 0 = true ∧
    Framebuffer.pixel spriteAtTop.fb 0 0 = false := by
  refine ⟨by decide, by decide, ⟨0, 0, by decide, by decide, by decide, by decide, by decide⟩, ?_, by decide, by decide⟩
  rintro ⟨k, b, hk, -⟩
  exact absurd hk (Nat.not_lt_zero k)

/-- FlatReadIndex, at the last pixel. -/
theorem test_witness_flat_index : (2047 : Fin 2048).val = (31 : Fin 32).val * 64 + (63 : Fin 64).val := by decide

/-- CallResult, ReturnResult, ReturnResumesAfterCall: fifteen entries, sixteen, one, none. -/
theorem test_witness_stack :
    ({ State.reset with stack := List.replicate 15 0x0202 } : State).stack.length < 16 ∧
    (fullStack 0).stack.length = 16 ∧ (State.reset.push 0x0204).stack = 0x0204 :: [] ∧ State.reset.stack = [] := by decide

/-- SkipIgnoresSkippedWord. -/
theorem test_witness_skip : IsSkip (.seVxKk 0 0) ∧ IsSkip (.sknp 15) :=
  ⟨.inl ⟨0, 0, rfl⟩, .inr (.inr (.inr (.inr (.inr ⟨15, rfl⟩))))⟩

/-- KeySkipResult and KeyWaitResult: the key of Vx, another key that differs in a high bit only, no key. -/
theorem test_witness_keys :
    (setKey (some 0x0A) State.reset).key = some 0x0A ∧
    (0x0A : Byte).toNat = (((setKey (some 0x0A) State.reset).setReg 0 0x0A).reg 0).toNat ∧
    (0x0A : Byte).toNat ≠ (((setKey (some 0x0A) State.reset).setReg 0 0x1A).reg 0).toNat ∧
    State.reset.key = none := by decide

/-- WaitEndsWithKey. -/
theorem test_witness_waiting : Executes (prog [0xF10A]) (.ldVxK 1) ∧ (prog [0xF10A]).key = none :=
  ⟨⟨rfl, by decide, by decide⟩, rfl⟩

/-- LoadPlacesProgram, LoadKeepsTheRest, LoadTooLargeChangesNothing: the largest program, its last word, one word more. -/
theorem test_witness_load :
    (List.replicate 1792 (0x00E0 : Word)).length ≤ 1792 ∧ (List.replicate 1792 (0x00E0 : Word))[1791]? = some 0x00E0 ∧
    1792 < (List.replicate 1793 (0x00E0 : Word)).length := by
  simp only [List.length_replicate, List.getElem?_replicate]
  exact ⟨Nat.le_refl 1792, if_pos (by omega), by omega⟩

/-- IdleLoopStays: `JP 0x200` at 0x200. -/
theorem test_witness_idle : IdleLoop (prog [0x1200]) := ⟨0x200, ⟨rfl, by decide, by decide⟩, by decide⟩

/-- PlacedWordRuns, for a halted state whose PC is out of range. -/
theorem test_witness_placed :
    Memory.wf ((State.reset.jump 4095).latch .stackOverflow).mem = true ∧ decodeWord 0x8AB4 = .ok (.addVxVy 10 11) ∧
    stepStatus (((State.reset.jump 4095).latch .stackOverflow).withFetchWord 16 0x6007) = .continue_ := by decide

/-- StepKeepsInv and AnyInterleavingKeepsInv: the extreme values the invariant allows. -/
theorem test_witness_inv_extreme : Inv { State.reset with pc := 4350, stack := List.replicate 16 4096 } :=
  ⟨rfl, by decide, fun w hw => by rw [List.eq_of_mem_replicate hw]; decide, by decide⟩

/-- StepKeepsInv: a step from a state that meets the invariant, returning to the largest return address. -/
theorem test_witness_inv_step :
    Inv ((prog [0x00EE]).push 4096) ∧ (afterStep ((prog [0x00EE]).push 4096)).pc = 4096 :=
  ⟨⟨by decide, by decide, fun w hw => by rw [List.mem_singleton.mp hw]; decide, by decide⟩, by decide⟩

end Sys2Proof.Tests
end

section
/-! The family 20_memory: the word a fetch reads (R52) and the memory a load leaves (R64). -/

namespace Sys2Proof

theorem hiByte_toNat (w : Word) : (hiByte w).toNat = w.toNat / 256 := by
  have := w.isLt
  rw [hiByte, BitVec.extractLsb'_toNat, Nat.shiftRight_eq_div_pow]
  omega

theorem loByte_toNat (w : Word) : (loByte w).toNat = w.toNat % 256 := by
  rw [loByte, BitVec.extractLsb'_toNat, Nat.shiftRight_zero]

end Sys2Proof

namespace Sys2Proof.Machine

theorem Memory.readWord_toNat (m : Memory) (a : Nat) :
    (m.readWord a).toNat = 256 * (m.read a).toNat + (m.read (a + 1)).toNat :=
  wordOfBytes_toNat _ _

/-- Word `k` of a program that fits lies at `512 + 2k`, high byte first (R64). -/
theorem read_programImage {ws : List Word} (h : ws.length ≤ 1792) {k : Nat} (hk : k < ws.length) :
    (programImage ws).read (512 + 2 * k) = hiByte ws[k] ∧ (programImage ws).read (513 + 2 * k) = loByte ws[k] := by
  have hfit : Config.progBase + (wordsToBytes ws).length ≤ 4096 := by
    simp only [Config.progBase, wordsToBytes_length]
    omega
  have hbyte : ∀ {j : Nat} (hj : j < (wordsToBytes ws).length),
      (programImage ws).read (512 + j) = (wordsToBytes ws)[j] :=
    fun hj => Memory.read_writeBlock rfl _ hfit hj
  have hlen := wordsToBytes_length ws
  obtain ⟨hhi, hlo⟩ := wordsToBytes_getElem ws k hk
  constructor
  · rw [hbyte (by omega), hhi]
  · rw [show 513 + 2 * k = 512 + (2 * k + 1) by omega, hbyte (by omega), hlo]

/-- Outside the program every byte of the image is 0 (R64). -/
theorem read_programImage_outside {ws : List Word} {a : Nat} (h : a < 512 ∨ 512 + 2 * ws.length ≤ a) :
    (programImage ws).read a = 0 :=
  Memory.read_writeBlock_other [] _ (by rwa [wordsToBytes_length])

@[simp] theorem loaded_mem (ws : List Word) (s : State) : (loaded ws s).mem = programImage ws := rfl

@[simp] theorem loaded_pc_toNat (ws : List Word) (s : State) : (loaded ws s).pc.toNat = 512 := rfl

theorem hostLoad_of_fits {ws : List Word} (h : ws.length ≤ 1792) (s : State) : hostLoad ws s = (loaded ws s, .ok) :=
  if_neg (Nat.not_lt.mpr h)

/-- Settles O52: a load that fits leaves the program's image, whose bytes are those of the program inside it and 0
outside it. -/
theorem loadPlacesProgram : Obligations.LoadPlacesProgram := by
  intro ws s hlen
  rw [hostLoad_of_fits hlen, loaded_mem]
  refine ⟨fun k w hw => ?_, fun a ha => read_programImage_outside ha, loaded_pc_toNat ws s⟩
  obtain ⟨hk, rfl⟩ := List.getElem?_eq_some_iff.mp hw
  obtain ⟨hhi, hlo⟩ := read_programImage hlen hk
  rw [hhi, hlo]
  exact ⟨hiByte_toNat _, loByte_toNat _⟩

/-- Settles O4: at a PC in range the fetch answers the word read there, the byte at the lower address on top. -/
theorem fetchIsBigEndian : Obligations.FetchIsBigEndian := fun s hpc =>
  ⟨s.mem.readWord s.pc.toNat, State.fetch_eq_some.mpr ⟨hpc, rfl⟩, Memory.readWord_toNat _ _⟩

end Sys2Proof.Machine
end

section
/-! The family 41_control_flow: the skips on equal and on different bytes (R105 to R107). -/

namespace Sys2Proof.Machine

theorem Part.same_jump (p : Part) (s : State) (target : Word) : p.Same s (s.jump target) := by
  cases p with
  | screen => exact fun _ _ => rfl
  | memory => exact fun _ => rfl
  | random => exact ⟨rfl, rfl⟩
  | index | stack | delay | sound | key | fault => rfl

theorem onlyPc_jump (s : State) (target : Word) : OnlyPc s (s.jump target) :=
  ⟨fun r _ => State.reg_jump s r target, fun p _ => p.same_jump s target⟩

/-- Both ends of a skip are jumps, to `pc + 4` and to `pc + 2` (R94, R100). -/
theorem onlyPc_skipIf (s : State) (c : Bool) : OnlyPc s (s.skipIf c) := by
  cases c with
  | true => exact onlyPc_jump s (s.pc + 4)
  | false => exact onlyPc_jump s (s.pc + 2)

theorem State.skipIf_beq_pc (s : State) (a b : Byte) :
    (s.skipIf (a == b)).pc = if a.toNat = b.toNat then s.pc + 4 else s.pc + 2 := by
  simp only [State.skipIf_pc, beq_iff_eq, BitVec.toNat_inj]

theorem State.skipIf_bne_pc (s : State) (a b : Byte) :
    (s.skipIf (a != b)).pc = if a.toNat = b.toNat then s.pc + 2 else s.pc + 4 := by
  simp only [State.skipIf_pc, bne_iff_ne, ne_eq, ite_not, BitVec.toNat_inj]

theorem exec_seVxKk (x : RegIdx) (kk : Byte) (s : State) :
    exec (.seVxKk x kk) s = .next (s.skipIf (s.reg x == kk)) := rfl

theorem exec_sneVxKk (x : RegIdx) (kk : Byte) (s : State) :
    exec (.sneVxKk x kk) s = .next (s.skipIf (s.reg x != kk)) := rfl

theorem exec_seVxVy (x y : RegIdx) (n : BitVec 4) (s : State) :
    exec (.seVxVy x y n) s = .next (s.skipIf (s.reg x == s.reg y)) := rfl

/-- Settles O41: each of the two is a skip on its comparison of Vx with kk. -/
theorem skipImmediateResult : Obligations.SkipImmediateResult :=
  ⟨fun x kk s => ⟨_, exec_seVxKk x kk s, s.skipIf_beq_pc _ _, onlyPc_skipIf s _⟩,
    fun x kk s => ⟨_, exec_sneVxKk x kk s, s.skipIf_bne_pc _ _, onlyPc_skipIf s _⟩⟩

/-- Settles O42: a skip on the comparison of Vx with Vy, whatever the low nibble. -/
theorem skipRegistersEqualResult : Obligations.SkipRegistersEqualResult := fun x y n s =>
  ⟨_, exec_seVxVy x y n s, s.skipIf_beq_pc _ _, onlyPc_skipIf s _⟩

end Sys2Proof.Machine
end

section
/-! The family 42_arithmetic_logic: the register that takes a result, and 7xkk (R122). -/

namespace Sys2Proof.Machine

/-- A register write touches no part: what is compared with the state after it is compared with the state before it. -/
@[simp] theorem Part.same_setReg_left (p : Part) (s t : State) (x : RegIdx) (b : Byte) :
    p.Same (s.setReg x b) t ↔ p.Same s t := by
  cases p <;> rfl

/-- Writing Vx and advancing changes Vx and PC only; VF is Vx or is kept. -/
theorem frame_setReg_advance (x : RegIdx) (b : Byte) (s : State) :
    Frame (· = x) noPart s (s.setReg x b).advance := by
  refine ⟨fun r hr => ?_, fun p _ => ?_⟩
  · rw [State.reg_advance, State.reg_setReg_of_ne s b hr]
  · exact (p.same_setReg_left s _ x b).mp (p.same_jump (s.setReg x b) _)

theorem exec_addVxKk (x : RegIdx) (kk : Byte) (s : State) :
    exec (.addVxKk x kk) s = .next (s.setReg x (s.reg x + kk)).advance := rfl

/-- Settles O17: the sum of two bytes is taken modulo 256, and the write is one to Vx alone. -/
theorem addImmediateWraps : Obligations.AddImmediateWraps := by
  intro x kk s
  refine ⟨_, exec_addVxKk x kk s, ?_, rfl, frame_setReg_advance x _ s⟩
  rw [State.reg_advance, State.reg_setReg_self, BitVec.toNat_add]

end Sys2Proof.Machine
end

section
/-! The family 43_memory_index: writing I (R140). -/

namespace Sys2Proof.Machine

@[simp] theorem zextAddr_toNat (nnn : Addr12) : (zextAddr nnn).toNat = nnn.toNat :=
  BitVec.toNat_setWidth_of_le (by decide)

/-- A write to I touches no part but the index. -/
theorem Part.same_setI_left {p : Part} (hp : p ≠ .index) (s t : State) (w : Word) :
    p.Same (s.setI w) t ↔ p.Same s t := by
  cases p with
  | index => exact absurd rfl hp
  | stack | delay | sound | screen | memory | key | fault | random => rfl

/-- Writing I and advancing changes I and PC only. -/
theorem frame_setI_advance (w : Word) (s : State) : Frame noReg (· = .index) s (s.setI w).advance := by
  refine ⟨fun r _ => ?_, fun p hp => ?_⟩
  · rw [State.reg_advance, State.reg_setI]
  · exact (Part.same_setI_left hp s _ w).mp (p.same_jump (s.setI w) _)

theorem exec_ldINnn (nnn : Addr12) (s : State) :
    exec (.ldINnn nnn) s = .next (s.setI (zextAddr nnn)).advance := rfl

/-- Settles O24: nnn is zero-extended to 16 bits, and the write is one to I alone. -/
theorem loadIndexResult : Obligations.LoadIndexResult := fun nnn s =>
  ⟨_, exec_ldINnn nnn s, zextAddr_toNat nnn, rfl, frame_setI_advance _ s⟩

end Sys2Proof.Machine
end

section
/-! The family 44_display: writing the framebuffer, and the clear (R150). -/

namespace Sys2Proof.Machine

/-- A write to the framebuffer touches no part but the screen. -/
theorem Part.same_setFb_left {p : Part} (hp : p ≠ .screen) (s t : State) (fb : Framebuffer) :
    p.Same (s.setFb fb) t ↔ p.Same s t := by
  cases p with
  | screen => exact absurd rfl hp
  | index | stack | delay | sound | memory | key | fault | random => rfl

/-- Writing the framebuffer and advancing changes the screen and PC only; no register is written, VF included. -/
theorem frame_setFb_advance (fb : Framebuffer) (s : State) : Frame noReg (· = .screen) s (s.setFb fb).advance := by
  refine ⟨fun r _ => ?_, fun p hp => ?_⟩
  · rw [State.reg_advance, State.reg_setFb]
  · exact (Part.same_setFb_left hp s _ fb).mp (p.same_jump (s.setFb fb) _)

theorem exec_cls (s : State) : exec .cls s = .next (s.setFb Framebuffer.blank).advance := rfl

/-- Settles O32: the framebuffer is replaced by the blank one, and that write is the only one beside PC. -/
theorem clearScreenResult : Obligations.ClearScreenResult := fun s =>
  ⟨_, exec_cls s, Framebuffer.pixel_blank, rfl, frame_setFb_advance _ s⟩

end Sys2Proof.Machine
end

section
/-! The family 45_input_timers: the moves between Vx and the two timers (R163 to R165). -/

namespace Sys2Proof.Machine

theorem Part.same_jump_right (p : Part) (s t : State) (target : Word) :
    p.Same s (t.jump target) ↔ p.Same s t := by
  cases p <;> rfl

theorem Part.same_refl (p : Part) (s : State) : p.Same s s :=
  (p.same_jump_right s s s.pc).mp (p.same_jump s s.pc)

/-- The advance is a write to PC, which no frame speaks of. -/
theorem Frame.advance {regs : RegIdx → Prop} {parts : Part → Prop} {s t : State} (h : Frame regs parts s t) :
    Frame regs parts s t.advance := by
  obtain ⟨hreg, hpart⟩ := h
  refine ⟨fun r hr => ?_, fun p hp => ?_⟩
  · rw [State.reg_advance, hreg r hr]
  · exact (p.same_jump_right s t _).mpr (hpart p hp)

theorem frame_setDt (b : Byte) (s : State) : Frame noReg (· = .delay) s (s.setDt b) := by
  refine ⟨fun r _ => State.reg_setDt s r b, fun p hp => ?_⟩
  have hsame := p.same_refl s
  cases p with
  | delay => exact absurd rfl hp
  | index | stack | sound | screen | memory | key | fault | random => exact hsame

theorem frame_setSt (b : Byte) (s : State) : Frame noReg (· = .sound) s (s.setSt b) := by
  refine ⟨fun r _ => State.reg_setSt s r b, fun p hp => ?_⟩
  have hsame := p.same_refl s
  cases p with
  | sound => exact absurd rfl hp
  | index | stack | delay | screen | memory | key | fault | random => exact hsame

theorem exec_ldVxDt (x : RegIdx) (s : State) : exec (.ldVxDt x) s = .next (s.setReg x s.dt).advance := rfl

theorem exec_ldDtVx (x : RegIdx) (s : State) : exec (.ldDtVx x) s = .next (s.setDt (s.reg x)).advance := rfl

theorem exec_ldStVx (x : RegIdx) (s : State) : exec (.ldStVx x) s = .next (s.setSt (s.reg x)).advance := rfl

/-- Settles O48: each of the three is one write, to Vx, to DT or to ST alone, and the advance. -/
theorem timerMoves : Obligations.TimerMoves := by
  refine ⟨fun x s => ?_, fun x s => ?_, fun x s => ?_⟩
  · exact ⟨_, exec_ldVxDt x s, State.reg_setReg_self s x s.dt, rfl, frame_setReg_advance x s.dt s⟩
  · exact ⟨_, exec_ldDtVx x s, State.setDt_dt s (s.reg x), rfl, (frame_setDt (s.reg x) s).advance⟩
  · exact ⟨_, exec_ldStVx x s, State.setSt_st s (s.reg x), rfl, (frame_setSt (s.reg x) s).advance⟩

end Sys2Proof.Machine
end

section
/-! The family 60_exceptions: the load that does not fit (R189). -/

namespace Sys2Proof.Machine

/-- Settles O54: of the two things a load can do, the one that writes needs a program that fits. -/
theorem loadTooLargeChangesNothing : Obligations.LoadTooLargeChangesNothing := by
  intro ws s hlarge
  obtain ⟨-, hload⟩ | ⟨hfits, -⟩ := hostLoad_cases ws s
  · exact hload
  · exact absurd hfits (Nat.not_le_of_lt hlarge)

end Sys2Proof.Machine
end

section
/-! The decoder and the encoder: one equation per family, the round trip (R71 to R76), and the illegal words (R79). -/

namespace Sys2Proof

/-! ## The fields of a word as numbers (R72) -/

theorem fam_toNat (op : Word) : (fam op).toNat = op.toNat / 4096 := by
  have := op.isLt
  rw [fam, BitVec.extractLsb'_toNat, Nat.shiftRight_eq_div_pow]
  omega

theorem nBits_toNat (op : Word) : (nBits op).toNat = op.toNat % 16 := by
  rw [nBits, BitVec.extractLsb'_toNat, Nat.shiftRight_zero]

theorem fieldKk_toNat (op : Word) : (fieldKk op).toNat = op.toNat % 256 := by
  rw [fieldKk, BitVec.extractLsb'_toNat, Nat.shiftRight_zero]

theorem wordOfBytes_eq_of_toNat {hi lo : Byte} {w : Word} (hhi : hi.toNat = w.toNat / 256)
    (hlo : lo.toNat = w.toNat % 256) : wordOfBytes hi lo = w := by
  apply BitVec.eq_of_toNat_eq
  rw [wordOfBytes_toNat]
  omega

theorem packA_of_fam {op : Word} {f : BitVec 4} (h : fam op = f) : packA f (fieldNnn op) = op := h ▸ packA_fields op

theorem packXK_of_fam {op : Word} {f : BitVec 4} (h : fam op = f) : packXK f (fieldX op) (fieldKk op) = op :=
  h ▸ packXK_fields op

theorem packXY_of_fam {op : Word} {f : BitVec 4} (h : fam op = f) :
    packXY f (fieldX op) (fieldY op) (nBits op) = op := h ▸ packXY_fields op

/-! ## Family 0: SYS is every word but CLS and RET (R77) -/

theorem packA_right_inj {f : BitVec 4} {a b : Addr12} : packA f a = packA f b ↔ a = b :=
  ⟨fun h => by simpa using congrArg fieldNnn h, fun h => h ▸ rfl⟩

theorem wellFormed_sys {nnn : Addr12} : WellFormed (.sys nnn) ↔ nnn ≠ 0x0E0#12 ∧ nnn ≠ 0x0EE#12 := by
  simp [WellFormed, Instr.wellFormed]

theorem packA_zero_eq_cls {nnn : Addr12} : packA 0x0#4 nnn = 0x00E0#16 ↔ nnn = 0x0E0#12 :=
  packA_right_inj (b := 0x0E0#12)

theorem packA_zero_eq_ret {nnn : Addr12} : packA 0x0#4 nnn = 0x00EE#16 ↔ nnn = 0x0EE#12 :=
  packA_right_inj (b := 0x0EE#12)

theorem decode0_of_sys {nnn : Addr12} (h : WellFormed (.sys nnn)) : decode0 (packA 0x0#4 nnn) = .sys nnn := by
  obtain ⟨hcls, hret⟩ := wellFormed_sys.mp h
  simp [decode0, packA_zero_eq_cls, packA_zero_eq_ret, hcls, hret]

theorem encode_decode0 {op : Word} (h : fam op = 0x0#4) : WellFormed (decode0 op) ∧ encode (decode0 op) = op := by
  have hop : packA 0x0#4 (fieldNnn op) = op := packA_of_fam h
  unfold decode0
  split
  · next hcls => exact ⟨rfl, hcls.symm⟩
  · next hcls =>
    split
    · next hret => exact ⟨rfl, hret.symm⟩
    · next hret =>
      rw [← hop, packA_zero_eq_cls] at hcls
      rw [← hop, packA_zero_eq_ret] at hret
      exact ⟨wellFormed_sys.mpr ⟨hcls, hret⟩, hop⟩

/-! ## Families 8, E and F: which sub-opcodes are taken (R75, R76) -/

/-- A word of family 8 that decodes is packed again from its fields, the sub-opcode included. -/
theorem encode_decode8 {op : Word} {i : Instr} (h : decode8 op = .ok i) :
    WellFormed i ∧ encode i = packXY 0x8#4 (fieldX op) (fieldY op) (nBits op) := by
  unfold decode8 at h
  split at h <;> cases h
  all_goals next hn => exact ⟨rfl, by rw [hn]; rfl⟩

theorem encode_decodeE {op : Word} {i : Instr} (h : decodeE op = .ok i) :
    WellFormed i ∧ encode i = packXK 0xE#4 (fieldX op) (fieldKk op) := by
  unfold decodeE at h
  split at h <;> cases h
  all_goals next hk => exact ⟨rfl, by rw [hk]; rfl⟩

theorem encode_decodeF {op : Word} {i : Instr} (h : decodeF op = .ok i) :
    WellFormed i ∧ encode i = packXK 0xF#4 (fieldX op) (fieldKk op) := by
  unfold decodeF at h
  split at h <;> cases h
  all_goals next hk => exact ⟨rfl, by rw [hk]; rfl⟩

/-! ## The round trip -/

/-- Settles O13: each family's arm packs the fields it read, and a word is the packing of its fields. -/
theorem encodeOfDecode : Obligations.EncodeOfDecode := by
  intro op i h
  unfold decodeWord at h
  split at h
  case h_1 hf => cases h; exact encode_decode0 hf
  case h_9 hf =>
    obtain ⟨hwf, he⟩ := encode_decode8 h
    exact ⟨hwf, he.trans (packXY_of_fam hf)⟩
  case h_15 hf =>
    obtain ⟨hwf, he⟩ := encode_decodeE h
    exact ⟨hwf, he.trans (packXK_of_fam hf)⟩
  case h_16 h0 h1 h2 h3 h4 h5 h6 h7 h8 h9 hA hB hC hD hE =>
    have hf : fam op = 0xF#4 := nibble_eq_F h0 h1 h2 h3 h4 h5 h6 h7 h8 h9 hA hB hC hD hE
    obtain ⟨hwf, he⟩ := encode_decodeF h
    exact ⟨hwf, he.trans (packXK_of_fam hf)⟩
  case h_2 hf | h_3 hf | h_11 hf | h_12 hf => cases h; exact ⟨rfl, packA_of_fam hf⟩
  case h_4 hf | h_5 hf | h_7 hf | h_8 hf | h_13 hf => cases h; exact ⟨rfl, packXK_of_fam hf⟩
  case h_6 hf | h_10 hf | h_14 hf => cases h; exact ⟨rfl, packXY_of_fam hf⟩

theorem decode_encodeBytes_eq_ok {i j : Instr} :
    decode (encodeBytes i) = .ok (j, []) ↔ decodeWord (encode i) = .ok j := by
  rw [encodeBytes, decode_pair_eq_ok, wordOfBytes_hiByte_loByte]

/-- Each format's fields are read back from its word; only SYS needs that its word is not that of CLS or RET. -/
theorem decodeWord_encode {i : Instr} (h : WellFormed i) : decodeWord (encode i) = .ok i := by
  cases i
  case cls => rfl
  case ret => rfl
  case sys nnn => simp [encode, decodeWord, decode0_of_sys h]
  all_goals simp [encode, decodeWord, decode8, decodeE, decodeF, fieldN]

/-- Settles O12: the fields of a packed word are the ones packed, and each family reads back the fields it packs. -/
theorem decodeOfEncode : Obligations.DecodeOfEncode :=
  fun _ h => decode_encodeBytes_eq_ok.mpr (decodeWord_encode h)

/-! ## The illegal words (R79) -/

/-- The sub-opcodes of family 8 that select no instruction. -/
def unusedIn8 : List (BitVec 4) := [0x8#4, 0x9#4, 0xA#4, 0xB#4, 0xC#4, 0xD#4, 0xF#4]

/-- The sub-opcodes of family E that select an instruction. -/
def usedInE : List Byte := [0x9E#8, 0xA1#8]

/-- The sub-opcodes of family F that select an instruction. -/
def usedInF : List Byte := [0x07#8, 0x0A#8, 0x15#8, 0x18#8, 0x1E#8, 0x33#8, 0x55#8, 0x65#8]

/-- The illegal words by the fields that the decoder reads. -/
theorem illegalWord_iff {op : Word} : Machine.IllegalWord op ↔
    (fam op = 0x8#4 ∧ nBits op ∈ unusedIn8) ∨ (fam op = 0xE#4 ∧ fieldKk op ∉ usedInE) ∨
      (fam op = 0xF#4 ∧ fieldKk op ∉ usedInF) := by
  simp [Machine.IllegalWord, unusedIn8, usedInE, usedInF, ← BitVec.toNat_inj, fam_toNat, nBits_toNat, fieldKk_toNat]

/-- A decoder's answer for a word that it takes exactly when `illegal` is false. -/
def DecodesUnless (illegal : Prop) (op : Word) (answer : Except DecodeError Instr) : Prop :=
  (illegal → answer = .error (.unsupportedOpcode op)) ∧ (¬ illegal → ∃ i, answer = .ok i)

theorem DecodesUnless.of_ok {illegal : Prop} {op : Word} {answer : Except DecodeError Instr} {i : Instr}
    (h : ¬ illegal) (ha : answer = .ok i) : DecodesUnless illegal op answer := ⟨fun hi => absurd hi h, fun _ => ⟨i, ha⟩⟩

theorem DecodesUnless.of_error {illegal : Prop} {op : Word} {answer : Except DecodeError Instr}
    (h : illegal) (ha : answer = .error (.unsupportedOpcode op)) : DecodesUnless illegal op answer :=
  ⟨fun _ => ha, fun hi => absurd h hi⟩

theorem nibble_unused_in_8 : ∀ n : BitVec 4, n ≠ 0x0#4 → n ≠ 0x1#4 → n ≠ 0x2#4 → n ≠ 0x3#4 → n ≠ 0x4#4 → n ≠ 0x5#4 →
    n ≠ 0x6#4 → n ≠ 0x7#4 → n ≠ 0xE#4 → n ∈ unusedIn8 := by decide

theorem decode8_decodesUnless (op : Word) : DecodesUnless (nBits op ∈ unusedIn8) op (decode8 op) := by
  unfold decode8
  split
  case h_10 h0 h1 h2 h3 h4 h5 h6 h7 hE => exact .of_error (nibble_unused_in_8 _ h0 h1 h2 h3 h4 h5 h6 h7 hE) rfl
  all_goals next hn => exact .of_ok (by rw [hn]; decide) rfl

theorem decodeE_decodesUnless (op : Word) : DecodesUnless (fieldKk op ∉ usedInE) op (decodeE op) := by
  unfold decodeE
  split
  case h_3 h1 h2 => exact .of_error (by simpa [usedInE] using ⟨h1, h2⟩) rfl
  all_goals next hk => exact .of_ok (by rw [hk]; decide) rfl

theorem decodeF_decodesUnless (op : Word) : DecodesUnless (fieldKk op ∉ usedInF) op (decodeF op) := by
  unfold decodeF
  split
  case h_9 h1 h2 h3 h4 h5 h6 h7 h8 => exact .of_error (by simpa [usedInF] using ⟨h1, h2, h3, h4, h5, h6, h7, h8⟩) rfl
  all_goals next hk => exact .of_ok (by rw [hk]; decide) rfl

/-- The decoder takes every word but the illegal ones: only families 8, E and F leave any out. -/
theorem decodeWord_decodesUnless (op : Word) : DecodesUnless (Machine.IllegalWord op) op (decodeWord op) := by
  rw [illegalWord_iff]
  unfold decodeWord
  split
  case h_9 hf => simpa [hf] using decode8_decodesUnless op
  case h_15 hf => simpa [hf] using decodeE_decodesUnless op
  case h_16 h0 h1 h2 h3 h4 h5 h6 h7 h8 h9 hA hB hC hD hE =>
    have hf : fam op = 0xF#4 := nibble_eq_F h0 h1 h2 h3 h4 h5 h6 h7 h8 h9 hA hB hC hD hE
    simpa [hf] using decodeF_decodesUnless op
  all_goals next hf => exact .of_ok (by simp [hf]) rfl

theorem decodeWord_of_illegal {op : Word} (h : Machine.IllegalWord op) :
    decodeWord op = .error (.unsupportedOpcode op) := (decodeWord_decodesUnless op).1 h

/-- Settles O14: the decoder's unmatched sub-opcodes are the illegal words, and what it takes is well formed. -/
theorem illegalWordsExactly : Obligations.IllegalWordsExactly := by
  intro op
  refine ⟨decodeWord_of_illegal, fun hlegal => ?_⟩
  obtain ⟨i, hi⟩ := (decodeWord_decodesUnless op).2 hlegal
  exact ⟨i, (encodeOfDecode op i hi).1, hi⟩

/-- Settles O15: eleven closed facts. -/
theorem sampleWordsDecode : Obligations.SampleWordsDecode :=
  ⟨rfl, rfl, rfl, rfl, rfl, rfl, rfl, rfl, rfl, rfl, rfl⟩

end Sys2Proof
end

section
/-! Frames: what each write of an instruction leaves unchanged (R33), and how frames are put together. -/

namespace Sys2Proof.Machine

theorem Frame.mono {regs regs' : RegIdx → Prop} {parts parts' : Part → Prop} {s t : State} (h : Frame regs parts s t)
    (hregs : ∀ r, regs r → regs' r) (hparts : ∀ p, parts p → parts' p) : Frame regs' parts' s t :=
  ⟨fun r hr => h.1 r fun hr' => hr (hregs r hr'), fun p hp => h.2 p fun hp' => hp (hparts p hp')⟩

theorem Part.Same.trans {p : Part} {s t u : State} (h : p.Same s t) (h' : p.Same t u) : p.Same s u := by
  cases p with
  | screen => exact fun r c => (h' r c).trans (h r c)
  | memory => exact fun a => (h' a).trans (h a)
  | random => exact ⟨h'.1.trans h.1, h'.2.trans h.2⟩
  | index | stack | delay | sound | key | fault => exact Eq.trans h' h

theorem Frame.trans {regs : RegIdx → Prop} {parts : Part → Prop} {s t u : State} (h : Frame regs parts s t)
    (h' : Frame regs parts t u) : Frame regs parts s u :=
  ⟨fun r hr => (h'.1 r hr).trans (h.1 r hr), fun p hp => (h.2 p hp).trans (h'.2 p hp)⟩

/-- A state change that leaves the registers and all parts but one. -/
theorem frame_of_part {p : Part} {s t : State} (hv : t.v = s.v) (hp : ∀ q, q ≠ p → q.Same s t) :
    Frame noReg (· = p) s t :=
  ⟨fun r _ => by rw [State.reg, State.reg, hv], hp⟩

/-- A state change that leaves all parts changes at most registers and PC. -/
theorem frame_of_regs {regs : RegIdx → Prop} {s t : State} (hv : ∀ r, ¬ regs r → t.reg r = s.reg r)
    (hp : ∀ q : Part, q.Same s t) : Frame regs noPart s t :=
  ⟨hv, fun q _ => hp q⟩

theorem frame_setReg (x : RegIdx) (b : Byte) (s : State) : Frame (· = x) noPart s (s.setReg x b) :=
  frame_of_regs (fun _ hr => State.reg_setReg_of_ne s b hr) fun q => (q.same_setReg_left s _ x b).mp (q.same_refl _)

/-- A result to Vx, a flag to VF and the advance change Vx, VF and PC only (R120). -/
theorem frame_setRegFlag_advance (x : RegIdx) (b : Byte) (f : Bool) (s : State) :
    Frame (fun r => r = x ∨ r = 15) noPart s (s.setRegFlag x b f).advance :=
  ((frame_setReg x b s).mono (fun _ => .inl) (fun _ => id)).trans
    ((frame_setReg_advance vf (flagByte f) (s.setReg x b)).mono (fun _ => .inr) (fun _ => id))

theorem frame_loadRegs (m : Memory) (base : Nat) (x : RegIdx) (s : State) :
    Frame (· ≤ x) noPart s { s with v := loadRegs m base (x.val + 1) s.v } := by
  refine frame_of_regs (fun r hr => ?_) fun q => ?_
  · have hx : ¬ r.val < x.val + 1 := by rw [Fin.le_def] at hr; omega
    exact (loadRegs_getElem m base (x.val + 1) s.v r.val r.isLt).trans (if_neg hx)
  · have hsame := q.same_refl s
    cases q <;> exact hsame

theorem frame_setFb (fb : Framebuffer) (s : State) : Frame noReg (· = .screen) s (s.setFb fb) :=
  frame_of_part rfl fun q hq => (Part.same_setFb_left hq s _ fb).mp (q.same_refl _)

/-- A drawn screen, the collision to VF and the advance change the screen, VF and PC only (R151). -/
theorem frame_setFb_setFlag_advance (fb : Framebuffer) (f : Bool) (s : State) :
    Frame (· = 15) (· = .screen) s ((s.setFb fb).setFlag f).advance :=
  ((frame_setFb fb s).mono (fun _ => False.elim) (fun _ => id)).trans
    ((frame_setReg_advance vf (flagByte f) (s.setFb fb)).mono (fun _ => id) (fun _ => False.elim))

theorem frame_setMem (m : Memory) (s : State) : Frame noReg (· = .memory) s (s.setMem m) := by
  refine frame_of_part rfl fun q hq => ?_
  have hsame := q.same_refl s
  cases q with
  | memory => exact absurd rfl hq
  | index | stack | delay | sound | screen | key | fault | random => exact hsame

/-- A new stack and a new PC, as calls and returns leave them (R102, R103). -/
theorem frame_stack_pc (stack : List Word) (pc : Word) (s : State) :
    Frame noReg (· = .stack) s { s with stack := stack, pc := pc } := by
  refine frame_of_part rfl fun q hq => ?_
  have hsame := q.same_refl s
  cases q with
  | stack => exact absurd rfl hq
  | index | delay | sound | screen | memory | key | fault | random => exact hsame

theorem frame_takeRnd (s : State) : Frame noReg (· = .random) s s.takeRnd := by
  refine frame_of_part s.takeRnd_v fun q hq => ?_
  cases q with
  | random => exact absurd rfl hq
  | index => exact s.takeRnd_i
  | stack => exact s.takeRnd_stack
  | delay => exact s.takeRnd_dt
  | sound => exact s.takeRnd_st
  | screen => exact fun r c => by rw [s.takeRnd_fb]
  | memory => exact fun a => by rw [s.takeRnd_mem]
  | key => exact s.takeRnd_key
  | fault => exact s.takeRnd_fault

/-- A random draw to Vx and the advance change Vx, PC and the random input only (R132). -/
theorem frame_takeRnd_setReg_advance (x : RegIdx) (b : Byte) (s : State) :
    Frame (· = x) (· = .random) s (s.takeRnd.setReg x b).advance :=
  ((frame_takeRnd s).mono (fun _ => False.elim) (fun _ => id)).trans
    ((frame_setReg_advance x b s.takeRnd).mono (fun _ => id) (fun _ => False.elim))

end Sys2Proof.Machine
end

section
/-! The instructions that neither fault nor wait, each as one equation over the shared operations. -/

namespace Sys2Proof.Machine

variable (s : State) (x y : RegIdx) (kk : Byte) (nnn : Addr12)

theorem exec_sys : exec (.sys nnn) s = .next s.advance := rfl

theorem exec_jp : exec (.jp nnn) s = .next (s.jump (zextAddr nnn)) := rfl

theorem exec_jpV0 : exec (.jpV0 nnn) s = .next (s.jump (zextByte (s.reg 0) + zextAddr nnn)) := rfl

theorem exec_sneVxVy (n : BitVec 4) : exec (.sneVxVy x y n) s = .next (s.skipIf (s.reg x != s.reg y)) := rfl

theorem exec_skp : exec (.skp x) s = .next (s.skipIf (s.keyIs (s.reg x))) := rfl

theorem exec_sknp : exec (.sknp x) s = .next (s.skipIf (!s.keyIs (s.reg x))) := rfl

theorem exec_ldVxKk : exec (.ldVxKk x kk) s = .next (s.setReg x kk).advance := rfl

theorem exec_ldVxVy : exec (.ldVxVy x y) s = .next (s.setReg x (s.reg y)).advance := rfl

theorem exec_orVxVy : exec (.orVxVy x y) s = .next (s.setReg x (s.reg x ||| s.reg y)).advance := rfl

theorem exec_andVxVy : exec (.andVxVy x y) s = .next (s.setReg x (s.reg x &&& s.reg y)).advance := rfl

theorem exec_xorVxVy : exec (.xorVxVy x y) s = .next (s.setReg x (s.reg x ^^^ s.reg y)).advance := rfl

theorem exec_addVxVy : exec (.addVxVy x y) s =
    .next (s.setRegFlag x (s.reg x + s.reg y) (carry (s.reg x) (s.reg y))).advance := rfl

theorem exec_sub : exec (.sub x y) s =
    .next (s.setRegFlag x (s.reg x - s.reg y) (notBorrow (s.reg x) (s.reg y))).advance := rfl

theorem exec_subn : exec (.subn x y) s =
    .next (s.setRegFlag x (s.reg y - s.reg x) (notBorrow (s.reg y) (s.reg x))).advance := rfl

theorem exec_shr : exec (.shr x y) s =
    .next (s.setRegFlag x (s.reg x >>> 1) (shiftedOutLow (s.reg x))).advance := rfl

theorem exec_shl : exec (.shl x y) s =
    .next (s.setRegFlag x (s.reg x <<< 1) (shiftedOutHigh (s.reg x))).advance := rfl

theorem exec_rnd : exec (.rnd x kk) s = .next (s.takeRnd.setReg x (s.rndByte &&& kk)).advance := rfl

theorem exec_addIVx : exec (.addIVx x) s = .next (s.setI (s.i + zextByte (s.reg x))).advance := rfl

end Sys2Proof.Machine
end

section
/-! What an instruction can do, said once: complete, changing no more than it names, or take one of its faults. -/

namespace Sys2Proof.Machine

/-- The parts an instruction may write (R33). -/
def MayWritePart (i : Instr) : Part → Prop
  | .index => (∃ nnn, i = .ldINnn nnn) ∨ ∃ x, i = .addIVx x
  | .stack => i = .ret ∨ ∃ nnn, i = .call nnn
  | .delay => ∃ x, i = .ldDtVx x
  | .sound => ∃ x, i = .ldStVx x
  | .screen => i = .cls ∨ ∃ x y n, i = .drw x y n
  | .memory => (∃ x, i = .ldBVx x) ∨ ∃ x, i = .ldMemVx x
  | .key => False
  | .fault => False
  | .random => ∃ x kk, i = .rnd x kk

/-- How PC, the stack and the memory list come from those of `s`: what the machine's invariant speaks of. -/
inductive Flow (s : State) : State → Prop
  /-- The waiting `Fx0A` (R162). -/
  | waits : Flow s s
  /-- The default advance (R94). -/
  | advances {u : State} (pc : u.pc = s.pc) (stack : u.stack = s.stack) (mem : u.mem = s.mem) : Flow s u.advance
  /-- A conditional skip (R100). -/
  | skips (c : Bool) : Flow s (s.skipIf c)
  /-- A jump; the largest target is `V0 + nnn` (R23, R109). -/
  | jumps {target : Word} (bound : target.toNat ≤ 4350) : Flow s (s.jump target)
  /-- A call with room on the stack (R103). -/
  | calls (nnn : Addr12) (room : s.stack.length < 16) : Flow s ((s.push (s.pc + 2)).jump (zextAddr nnn))
  /-- A return to the top entry (R102). -/
  | returns {top : Word} {rest : List Word} (stack : s.stack = top :: rest) :
      Flow s { s with stack := rest, pc := top }
  /-- A block store inside memory (R142, R143). -/
  | stores {base : Nat} {bs : List Byte} (fits : base + bs.length ≤ 4096) :
      Flow s (s.setMem (s.mem.writeBlock base bs)).advance

/-- The fault an instruction takes, and when (R182). -/
inductive TakesFault (s : State) : Instr → Fault → Prop
  | ret (empty : s.stack = []) : TakesFault s .ret .stackUnderflow
  | call (nnn : Addr12) (full : 16 ≤ s.stack.length) : TakesFault s (.call nnn) .stackOverflow
  | drw (x y : RegIdx) {n : RowCount} (rows : 0 < n.val) (out : 4095 < s.i.toNat + n.val - 1) :
      TakesFault s (.drw x y n) (.dataOutOfBounds s.firstOutOfRange)
  | ldBVx (x : RegIdx) (out : 4095 < s.i.toNat + 2) : TakesFault s (.ldBVx x) (.dataOutOfBounds s.firstOutOfRange)
  | ldMemVx {x : RegIdx} (out : 4095 < s.i.toNat + x.val) :
      TakesFault s (.ldMemVx x) (.dataOutOfBounds s.firstOutOfRange)
  | ldVxMem {x : RegIdx} (out : 4095 < s.i.toNat + x.val) :
      TakesFault s (.ldVxMem x) (.dataOutOfBounds s.firstOutOfRange)

/-- From `s` the instruction answers `t` and no fault is taken. -/
structure Completes (i : Instr) (s t : State) : Prop where
  frame : Frame (MayWriteReg i) (MayWritePart i) s t
  flow : Flow s t

/-- From `s` the instruction answers `t`, in which it took a fault and did nothing else (R183). -/
def Faults (i : Instr) (s t : State) : Prop := ∃ f, TakesFault s i f ∧ t = { s with fault := some f }

/-- An instruction answers a next state, having completed or taken a fault. -/
def Answers (i : Instr) (s : State) : Prop := ∃ t, exec i s = .next t ∧ (Completes i s t ∨ Faults i s t)

variable {i : Instr} {s : State}

theorem Answers.completes {t : State} {regs : RegIdx → Prop} {parts : Part → Prop} (he : exec i s = .next t)
    (hframe : Frame regs parts s t) (hregs : ∀ r, regs r → MayWriteReg i r) (hparts : ∀ p, parts p → MayWritePart i p)
    (hflow : Flow s t) : Answers i s := ⟨t, he, .inl ⟨hframe.mono hregs hparts, hflow⟩⟩

theorem Answers.faults {f : Fault} (he : exec i s = .next { s with fault := some f }) (hf : TakesFault s i f) :
    Answers i s := ⟨_, he, .inr ⟨f, hf, rfl⟩⟩

/-! ## The shapes of an instruction's effect -/

theorem answers_setReg {x : RegIdx} {b : Byte} (he : exec i s = .next (s.setReg x b).advance) (hx : MayWriteReg i x) :
    Answers i s :=
  .completes he (frame_setReg_advance x b s) (fun _ hr => hr ▸ hx) (fun _ => False.elim) (.advances rfl rfl rfl)

theorem answers_setRegFlag {x : RegIdx} {b : Byte} {f : Bool} (he : exec i s = .next (s.setRegFlag x b f).advance)
    (hi : ∀ r, r = x ∨ r = 15 → MayWriteReg i r) : Answers i s :=
  .completes he (frame_setRegFlag_advance x b f s) hi (fun _ => False.elim) (.advances rfl rfl rfl)

theorem answers_part {p : Part} {t : State} (he : exec i s = .next t) (hframe : Frame noReg (· = p) s t)
    (hp : MayWritePart i p) (hflow : Flow s t) : Answers i s :=
  .completes he hframe (fun _ => False.elim) (fun _ hq => hq ▸ hp) hflow

theorem answers_onlyPc {t : State} (he : exec i s = .next t) (hframe : OnlyPc s t) (hflow : Flow s t) : Answers i s :=
  .completes he hframe (fun _ => False.elim) (fun _ => False.elim) hflow

theorem answers_skip {c : Bool} (he : exec i s = .next (s.skipIf c)) : Answers i s :=
  answers_onlyPc he (onlyPc_skipIf s c) (.skips c)

theorem answers_jump {target : Word} (he : exec i s = .next (s.jump target)) (hb : target.toNat ≤ 4350) :
    Answers i s :=
  answers_onlyPc he (onlyPc_jump s target) (.jumps hb)

/-- An instruction over the `len` bytes at I: what it does where they fit, and the fault where they do not (R58). -/
theorem answers_withBlock {len : Nat} {effect : State → State} (he : exec i s = withBlock len s effect)
    (hfits : len = 0 ∨ s.i.toNat + len - 1 ≤ 4095 → Completes i s (effect s))
    (hout : 0 < len → 4095 < s.i.toNat + len - 1 → TakesFault s i (.dataOutOfBounds s.firstOutOfRange)) :
    Answers i s := by
  have hb := s.blockFits_iff len
  cases h : s.blockFits len with
  | true => exact ⟨_, he.trans (withBlock_of_fits h _), .inl (hfits (hb.mp h))⟩
  | false =>
    rw [h] at hb
    have hno : ¬ (len = 0 ∨ s.i.toNat + len - 1 ≤ 4095) := fun hf => Bool.noConfusion (hb.mpr hf)
    exact .faults (he.trans (withBlock_of_not_fits h _)) (hout (by omega) (by omega))

theorem completes_store {base : Nat} {bs : List Byte} (hm : MayWritePart i .memory) (hfits : base + bs.length ≤ 4096) :
    Completes i s (s.setMem (s.mem.writeBlock base bs)).advance :=
  ⟨(frame_setMem _ s).advance.mono (fun _ => False.elim) (fun _ hp => hp ▸ hm), .stores hfits⟩

theorem zextByte_toNat (b : Byte) : (zextByte b).toNat = b.toNat :=
  BitVec.toNat_setWidth_of_le (by decide)

/-- The target of `Bnnn` is the exact sum: it is below 65536 (R109). -/
theorem jpV0_target_toNat (b : Byte) (nnn : Addr12) : (zextByte b + zextAddr nnn).toNat = b.toNat + nnn.toNat := by
  have := b.isLt
  have := nnn.isLt
  rw [BitVec.toNat_add, zextByte_toNat, zextAddr_toNat]
  omega

/-- Every instruction answers a next state from every state, and either completes, having written no more than it may,
or takes a fault of its own and does nothing else. -/
theorem exec_answers (i : Instr) (s : State) : Answers i s := by
  cases i with
  | cls => exact answers_part (exec_cls s) (frame_setFb_advance _ s) (.inl rfl) (.advances rfl rfl rfl)
  | ret =>
    cases h : s.stack with
    | nil => exact .faults (exec_ret_empty h) (.ret h)
    | cons top rest => exact answers_part (exec_ret_top h) (frame_stack_pc rest top s) (.inl rfl) (.returns h)
  | sys nnn => exact answers_onlyPc (exec_sys s nnn) (onlyPc_jump s _) (.advances rfl rfl rfl)
  | jp nnn => exact answers_jump (exec_jp s nnn) (by rw [zextAddr_toNat]; omega)
  | call nnn =>
    by_cases h : s.stack.length < 16
    · exact answers_part (exec_call_room nnn h) (frame_stack_pc _ _ s) (.inr ⟨nnn, rfl⟩) (.calls nnn h)
    · exact .faults (exec_call_full nnn (Nat.le_of_not_lt h)) (.call nnn (Nat.le_of_not_lt h))
  | seVxKk x kk => exact answers_skip (exec_seVxKk x kk s)
  | sneVxKk x kk => exact answers_skip (exec_sneVxKk x kk s)
  | seVxVy x y n => exact answers_skip (exec_seVxVy x y n s)
  | ldVxKk x kk => exact answers_setReg (exec_ldVxKk s x kk) rfl
  | addVxKk x kk => exact answers_setReg (exec_addVxKk x kk s) rfl
  | ldVxVy x y => exact answers_setReg (exec_ldVxVy s x y) rfl
  | orVxVy x y => exact answers_setReg (exec_orVxVy s x y) rfl
  | andVxVy x y => exact answers_setReg (exec_andVxVy s x y) rfl
  | xorVxVy x y => exact answers_setReg (exec_xorVxVy s x y) rfl
  | addVxVy x y => exact answers_setRegFlag (exec_addVxVy s x y) fun _ => id
  | sub x y => exact answers_setRegFlag (exec_sub s x y) fun _ => id
  | shr x y => exact answers_setRegFlag (exec_shr s x y) fun _ => id
  | subn x y => exact answers_setRegFlag (exec_subn s x y) fun _ => id
  | shl x y => exact answers_setRegFlag (exec_shl s x y) fun _ => id
  | sneVxVy x y n => exact answers_skip (exec_sneVxVy s x y n)
  | ldINnn nnn =>
    exact answers_part (exec_ldINnn nnn s) (frame_setI_advance _ s) (.inl ⟨nnn, rfl⟩) (.advances rfl rfl rfl)
  | jpV0 nnn => exact answers_jump (exec_jpV0 s nnn) (by rw [jpV0_target_toNat]; omega)
  | rnd x kk =>
    exact .completes (exec_rnd s x kk) (frame_takeRnd_setReg_advance x _ s) (fun _ => id) (fun _ hp => hp ▸ ⟨x, kk, rfl⟩)
      (.advances s.takeRnd_pc s.takeRnd_stack s.takeRnd_mem)
  | drw x y n =>
    refine answers_withBlock (exec_drw x y n s) (fun _ => ⟨?_, .advances rfl rfl rfl⟩) (.drw x y)
    exact (frame_setFb_setFlag_advance _ _ s).mono (fun _ => id) fun _ hp => hp ▸ .inr ⟨x, y, n, rfl⟩
  | skp x => exact answers_skip (exec_skp s x)
  | sknp x => exact answers_skip (exec_sknp s x)
  | ldVxDt x => exact answers_setReg (exec_ldVxDt x s) rfl
  | ldVxK x =>
    cases h : s.key with
    | none => exact answers_onlyPc (exec_ldVxK_wait x h) (onlyPc_jump s s.pc) .waits
    | some code => exact answers_setReg (exec_ldVxK_key x h) rfl
  | ldDtVx x => exact answers_part (exec_ldDtVx x s) (frame_setDt _ s).advance ⟨x, rfl⟩ (.advances rfl rfl rfl)
  | ldStVx x => exact answers_part (exec_ldStVx x s) (frame_setSt _ s).advance ⟨x, rfl⟩ (.advances rfl rfl rfl)
  | addIVx x => exact answers_part (exec_addIVx s x) (frame_setI_advance _ s) (.inr ⟨x, rfl⟩) (.advances rfl rfl rfl)
  | ldBVx x =>
    refine answers_withBlock (exec_ldBVx x s) (fun hfits => ?_) (fun _ hout => .ldBVx x (by omega))
    exact completes_store (.inl ⟨x, rfl⟩) (by simp [State.blockAddr, bcdDigits]; omega)
  | ldMemVx x =>
    refine answers_withBlock (exec_ldMemVx x s) (fun hfits => ?_) (fun _ hout => .ldMemVx (by omega))
    exact completes_store (.inr ⟨x, rfl⟩) (by rw [s.regBlock_length (by omega)]; simp only [State.blockAddr]; omega)
  | ldVxMem x =>
    refine answers_withBlock (exec_ldVxMem x s) (fun _ => ⟨?_, .advances rfl rfl rfl⟩) (fun _ hout => .ldVxMem (by omega))
    exact (frame_loadRegs _ _ x s).advance.mono (fun _ => id) fun _ => False.elim

theorem exec_eq_next_cases {t : State} (h : exec i s = .next t) : Completes i s t ∨ Faults i s t := by
  obtain ⟨u, hu, hcases⟩ := exec_answers i s
  cases hu.symm.trans h
  exact hcases

/-! ## What follows for the fault latch, the parts and the registers -/

theorem Completes.fault_eq {t : State} (h : Completes i s t) : t.fault = s.fault := h.frame.2 .fault id

/-- Whether it completed or faulted, an instruction leaves the parts it does not name, the fault latch aside. -/
theorem exec_part_same {t : State} (h : exec i s = .next t) {p : Part} (hp : p ≠ .fault) (hi : ¬ MayWritePart i p) :
    p.Same s t := by
  obtain hc | ⟨f, -, rfl⟩ := exec_eq_next_cases h
  · exact hc.frame.2 p hi
  · have hsame := p.same_refl s
    cases p with
    | fault => exact absurd rfl hp
    | index | stack | delay | sound | screen | memory | key | random => exact hsame

/-- Settles O7: an instruction that completes keeps the latch, and the faults are the six of `TakesFault`. -/
theorem onlyTheseInstructionsFault : Obligations.OnlyTheseInstructionsFault := by
  intro i s t hs h
  obtain hc | ⟨f, hf, rfl⟩ := exec_eq_next_cases h
  · exact .inl (hc.fault_eq.trans hs)
  right
  cases hf with
  | ret empty => exact .inl ⟨rfl, empty, rfl⟩
  | call nnn full => exact .inr (.inl ⟨nnn, rfl, full, rfl⟩)
  | drw x y rows out => exact .inr (.inr (.inl ⟨x, y, _, rfl, rows, out, _, rfl⟩))
  | ldBVx x out => exact .inr (.inr (.inr (.inl ⟨x, rfl, out, _, rfl⟩)))
  | ldMemVx out => exact .inr (.inr (.inr (.inr (.inl ⟨_, rfl, out, _, rfl⟩))))
  | ldVxMem out => exact .inr (.inr (.inr (.inr (.inr ⟨_, rfl, out, _, rfl⟩))))

/-- Settles O10: a part that changed is one the instruction may write, part by part. -/
theorem onlyNamedPartsChange : Obligations.OnlyNamedPartsChange := by
  intro i s t h
  have named : ∀ {p : Part}, p ≠ .fault → ¬ p.Same s t → MayWritePart i p :=
    fun hp hchanged => Classical.byContradiction fun hi => hchanged (exec_part_same h hp hi)
  refine ⟨named (p := .index) nofun, named (p := .stack) nofun, named (p := .delay) nofun, named (p := .sound) nofun, ?_,
    exec_part_same h (p := .key) nofun id, ?_⟩
  · rintro ⟨r, c, hpixel⟩
    exact named (p := .screen) nofun fun hsame => hpixel (hsame r c)
  · rintro ⟨a, hbyte⟩
    exact named (p := .memory) nofun fun hsame => hbyte (hsame a)

/-- Settles O11: a fault changes no register, and an instruction that completes changes those it may write. -/
theorem onlyNamedRegistersChange : Obligations.OnlyNamedRegistersChange := by
  intro i s t r h hchanged
  obtain hc | ⟨f, -, rfl⟩ := exec_eq_next_cases h
  · exact Classical.byContradiction fun hr => hchanged (hc.frame.1 r hr)
  · exact absurd rfl hchanged

end Sys2Proof.Machine
end

section
/-! The invariant of the machine: kept by every step and every host operation (R5, R23, R24). -/

namespace Sys2Proof.Machine

/-- The invariant speaks of memory, the stack and PC only. -/
theorem Inv.of_eq {s t : State} (h : Inv s) (hmem : t.mem = s.mem) (hstack : t.stack = s.stack)
    (hpc : t.pc.toNat ≤ 4350) : Inv t :=
  ⟨hmem ▸ h.memory, hstack ▸ h.depth, hstack ▸ h.returns, hpc⟩

theorem Inv.latch {s : State} (h : Inv s) (f : Fault) : Inv { s with fault := some f } := h.of_eq rfl rfl h.pcBound

/-- A PC that a word was fetched from, moved on by 2 or 4, is the exact sum. -/
theorem pc_add_two_toNat {pc : Word} (h : pc.toNat ≤ 4094) : (pc + 2).toNat = pc.toNat + 2 := by bv_omega

theorem pc_add_four_toNat {pc : Word} (h : pc.toNat ≤ 4094) : (pc + 4).toNat = pc.toNat + 4 := by bv_omega

/-- An instruction that completes where a word can be fetched keeps the invariant. -/
theorem Flow.keepsInv {s t : State} (h : Flow s t) (hs : Inv s) (hpc : s.pc.toNat ≤ 4094) : Inv t := by
  have htwo := pc_add_two_toNat hpc
  have hfour := pc_add_four_toNat hpc
  cases h with
  | waits => exact hs
  | advances pc stack mem => exact hs.of_eq mem stack (by rw [State.advance_pc, pc, htwo]; omega)
  | skips c =>
    refine hs.of_eq (s.skipIf_mem c) (s.skipIf_stack c) ?_
    rw [State.skipIf_pc]
    split <;> omega
  | jumps bound => exact hs.of_eq rfl rfl bound
  | calls nnn room =>
    refine ⟨hs.memory, room, ?_, by rw [State.jump_pc, zextAddr_toNat]; omega⟩
    intro w hw
    obtain rfl | hw := List.mem_cons.mp hw
    · rw [htwo]; omega
    · exact hs.returns w hw
  | returns stack =>
    have hdepth := hs.depth
    have hreturns := hs.returns
    rw [stack] at hdepth hreturns
    obtain ⟨-, htop⟩ := hreturns _ List.mem_cons_self
    exact ⟨hs.memory, Nat.le_of_succ_le hdepth, fun w hw => hreturns w (List.mem_cons_of_mem _ hw),
      htop.trans (by decide)⟩
  | stores fits =>
    exact ⟨Memory.wf_writeBlock hs.memory _ _ fits, hs.depth, hs.returns,
      by rw [State.advance_pc, State.setMem_pc, htwo]; omega⟩

theorem exec_keepsInv {i : Instr} {s t : State} (he : Executes s i) (h : exec i s = .next t) (hs : Inv s) : Inv t := by
  obtain hc | ⟨f, -, rfl⟩ := exec_eq_next_cases h
  · exact hc.flow.keepsInv hs (Nat.le_of_succ_le_succ he.inMemory)
  · exact hs.latch f

/-- Settles O58: the three things a step can do are to run an instruction and to take a fault of fetch or decode. -/
theorem stepKeepsInv : Obligations.StepKeepsInv := by
  intro s t hs h
  obtain ⟨i, hi, he⟩ | ⟨-, -, rfl⟩ | ⟨-, op, e, -, -, rfl⟩ := step_eq_next.mp h
  · exact exec_keepsInv hi he hs
  · exact hs.latch _
  · exact hs.latch _

/-- Settles O57: memory and the stack are empty at reset, and PC is 512. -/
theorem resetMeetsInv : Obligations.ResetMeetsInv := ⟨rfl, Nat.zero_le 16, nofun, by decide⟩

theorem Inv.afterStep {s : State} (hs : Inv s) : Inv (afterStep s) := by
  unfold Machine.afterStep
  split
  · next t h => exact stepKeepsInv s t hs h
  · exact hs
  · exact hs

theorem Inv.hostLoad {s : State} (hs : Inv s) (ws : List Word) : Inv (hostLoad ws s).1 := by
  obtain ⟨-, h⟩ | ⟨hfits, h⟩ := hostLoad_cases ws s
  · rw [h]; exact hs
  · rw [h]; exact ⟨wf_programImage hfits, hs.depth, hs.returns, by rw [loaded_pc_toNat]; omega⟩

theorem Inv.perform {s : State} (hs : Inv s) (e : Event) : Inv (perform e s).1 := by
  cases e with
  | step => exact hs.afterStep
  | reset => exact resetMeetsInv.of_eq rfl rfl resetMeetsInv.pcBound
  | load ws => exact hs.hostLoad ws
  | tickTimers => exact hs.of_eq rfl rfl hs.pcBound
  | setKey k => exact hs.of_eq rfl rfl hs.pcBound
  | supplyRandom b => exact hs.of_eq rfl rfl hs.pcBound
  | readFramebuffer => exact hs

/-- Settles O59, by induction on the events: each operation keeps the invariant. -/
theorem anyInterleavingKeepsInv : Obligations.AnyInterleavingKeepsInv := by
  intro es
  induction es with
  | nil => exact fun _ hs => hs
  | cons e es ih => exact fun s hs => ih (perform e s).1 (hs.perform e)

end Sys2Proof.Machine
end

section
/-! The step: which word it runs, its checks in order, its status, and the halt (R90 to R96, R183, R191). -/

namespace Sys2Proof.Machine

/-- Settles O1: of the cases of a step this is the one that runs an instruction. -/
theorem stepRunsDecodedInstruction : Obligations.StepRunsDecodedInstruction := fun _ _ => step_of_executes

/-- Settles O2: the two bytes make the word of the instruction, and that word decodes to it. -/
theorem storedEncodingRuns : Obligations.StoredEncodingRuns := by
  intro s i hwf hrunning hpc hhi hlo
  refine step_of_executes ⟨hrunning, hpc, decode_pair_eq_ok.mpr ?_⟩
  rw [wordOfBytes_eq_of_toNat hhi hlo]
  exact decodeWord_encode hwf

theorem fetch_eq_some_of_toNat {s : State} {op : Word} (hpc : s.pc.toNat + 1 ≤ 4095)
    (hop : op.toNat = 256 * (Memory.read s.mem s.pc.toNat).toNat + (Memory.read s.mem (s.pc.toNat + 1)).toNat) :
    s.fetch = some op :=
  State.fetch_eq_some.mpr ⟨hpc, BitVec.eq_of_toNat_eq ((Memory.readWord_toNat _ _).trans hop.symm)⟩

/-- Settles O3: the latch, then the fetch range, then the decoder, as the cases of a step have them. -/
theorem stepChecksInOrder : Obligations.StepChecksInOrder := by
  intro s
  refine ⟨fun f => step_of_halted, fun hrunning hout => ?_, fun op hrunning hpc hop hillegal => ?_⟩
  · exact step_eq_next.mpr (.inr (.inl ⟨hrunning, State.fetch_eq_none.mpr hout, rfl⟩))
  · have hfetch := fetch_eq_some_of_toNat hpc hop
    exact step_eq_next.mpr (.inr (.inr ⟨hrunning, op, _, hfetch, decodeWord_of_illegal hillegal, rfl⟩))

/-- Settles O6: an instruction that completes takes no fault, and each way to take one sets the latch only. -/
theorem faultsArePrecise : Obligations.FaultsArePrecise := by
  intro s t f hrunning h hf
  obtain ⟨i, -, he⟩ | ⟨-, -, rfl⟩ | ⟨-, op, e, -, -, rfl⟩ := step_eq_next.mp h
  · obtain hc | ⟨g, -, rfl⟩ := exec_eq_next_cases he
    · rw [hc.fault_eq, hrunning] at hf
      cases hf
    · cases hf
      rfl
  · cases hf
    rfl
  · cases hf
    rfl

/-! ## The status of a step (R95) -/

/-- A running core whose step leaves no fault ran the instruction at PC. -/
theorem executes_of_no_fault {s : State} (h : (afterStep s).fault = none) :
    ∃ i, Executes s i ∧ exec i s = .next (afterStep s) := by
  have hrunning : s.fault = none := by
    by_contra hhalted
    rw [afterStep_of_halted hhalted] at h
    exact hhalted h
  cases hfetch : s.fetch with
  | none =>
    rw [afterStep_of_next (step_eq_next.mpr (.inr (.inl ⟨hrunning, hfetch, rfl⟩)))] at h
    cases h
  | some op =>
    cases hdecode : decodeWord op with
    | error e =>
      rw [afterStep_of_next (step_eq_next.mpr (.inr (.inr ⟨hrunning, op, e, hfetch, hdecode, rfl⟩)))] at h
      cases h
    | ok i =>
      have hi : Executes s i := Executes_iff.mpr ⟨hrunning, op, hfetch, hdecode⟩
      obtain ⟨t, ht, -⟩ := exec_answers i s
      rw [afterStep_of_next ((step_of_executes hi).trans ht)]
      exact ⟨i, hi, ht⟩

theorem afterStep_of_executes {s t : State} {i : Instr} (hi : Executes s i) (h : exec i s = .next t) :
    afterStep s = t := afterStep_of_next ((step_of_executes hi).trans h)

theorem Executes.atKeyWait_iff {s : State} {i : Instr} (hi : Executes s i) :
    s.atKeyWait = true ↔ ∃ x, i = .ldVxK x := by
  obtain ⟨-, op, hfetch, hdecode⟩ := Executes_iff.mp hi
  simp only [State.atKeyWait, hfetch, hdecode]
  cases i <;> simp

theorem stepStatus_eq_fault {s : State} {f : Fault} : stepStatus s = .fault f ↔ (afterStep s).fault = some f := by
  unfold stepStatus
  split
  · next g hg => simp [hg]
  · next hg => split <;> simp [hg]

theorem stepStatus_eq_waiting {s : State} :
    stepStatus s = .waitingForKey ↔ (afterStep s).fault = none ∧ s.atKeyWait = true ∧ s.key = none := by
  unfold stepStatus
  split
  · next g hg => simp [hg]
  · next hg => simp [hg]

theorem stepStatus_eq_continue {s : State} :
    stepStatus s = .continue_ ↔ (afterStep s).fault = none ∧ ¬ (s.atKeyWait = true ∧ s.key = none) := by
  unfold stepStatus
  split
  · next g hg => simp [hg]
  · next hg => simp [hg]

theorem stepStatus_eq_waiting_iff_executes {s : State} :
    stepStatus s = .waitingForKey ↔ ∃ x, Executes s (.ldVxK x) ∧ s.key = none := by
  rw [stepStatus_eq_waiting]
  constructor
  · rintro ⟨hfault, hwait, hkey⟩
    obtain ⟨i, hi, -⟩ := executes_of_no_fault hfault
    obtain ⟨x, rfl⟩ := hi.atKeyWait_iff.mp hwait
    exact ⟨x, hi, hkey⟩
  · rintro ⟨x, hi, hkey⟩
    rw [afterStep_of_executes hi (exec_ldVxK_wait x hkey)]
    exact ⟨hi.running, hi.atKeyWait_iff.mpr ⟨x, rfl⟩, hkey⟩

theorem stepStatus_eq_continue_iff_executes {s : State} :
    stepStatus s = .continue_ ↔
      ∃ i t, Executes s i ∧ ¬ (∃ x, i = .ldVxK x ∧ s.key = none) ∧ exec i s = .next t ∧ afterStep s = t ∧
        t.fault = none := by
  rw [stepStatus_eq_continue]
  constructor
  · rintro ⟨hfault, hnotwait⟩
    obtain ⟨i, hi, he⟩ := executes_of_no_fault hfault
    exact ⟨i, _, hi, fun ⟨x, hx, hkey⟩ => hnotwait ⟨hi.atKeyWait_iff.mpr ⟨x, hx⟩, hkey⟩, he, rfl, hfault⟩
  · rintro ⟨i, t, hi, hnotwait, -, rfl, hfault⟩
    refine ⟨hfault, fun ⟨hwait, hkey⟩ => hnotwait ?_⟩
    obtain ⟨x, hx⟩ := hi.atKeyWait_iff.mp hwait
    exact ⟨x, hx, hkey⟩

/-- Settles O5: the latch after the step gives the fault, and without one the step ran the instruction at PC. -/
theorem stepStatusIsOneOfThree : Obligations.StepStatusIsOneOfThree := fun _ =>
  ⟨stepStatus_eq_waiting_iff_executes, fun _ => stepStatus_eq_fault, stepStatus_eq_continue_iff_executes⟩

/-! ## The halt (R90, R192) -/

/-- The latch and the program state are the same in two states. -/
structure SameProgramState (s t : State) : Prop where
  fault : t.fault = s.fault
  v : t.v = s.v
  i : t.i = s.i
  pc : t.pc = s.pc
  stack : t.stack = s.stack
  fb : t.fb = s.fb
  mem : t.mem = s.mem

theorem SameProgramState.refl (s : State) : SameProgramState s s := ⟨rfl, rfl, rfl, rfl, rfl, rfl, rfl⟩

theorem SameProgramState.trans {s t u : State} (h : SameProgramState s t) (h' : SameProgramState t u) :
    SameProgramState s u :=
  ⟨h'.fault.trans h.fault, h'.v.trans h.v, h'.i.trans h.i, h'.pc.trans h.pc, h'.stack.trans h.stack, h'.fb.trans h.fb,
    h'.mem.trans h.mem⟩

theorem perform_halted {s : State} {e : Event} (hs : s.fault ≠ none) (hreset : e ≠ .reset) (hload : ∀ ws, e ≠ .load ws) :
    SameProgramState s (perform e s).1 := by
  cases e with
  | step => rw [perform, afterStep_of_halted hs]; exact .refl s
  | reset => exact absurd rfl hreset
  | load ws => exact absurd rfl (hload ws)
  | tickTimers | setKey | supplyRandom | readFramebuffer => exact ⟨rfl, rfl, rfl, rfl, rfl, rfl, rfl⟩

theorem run_halted {es : List Event} {s : State} (hs : s.fault ≠ none)
    (hes : ∀ e ∈ es, e ≠ .reset ∧ ∀ ws, e ≠ .load ws) : SameProgramState s (run es s) := by
  induction es generalizing s with
  | nil => exact .refl s
  | cons e es ih =>
    obtain ⟨⟨hreset, hload⟩, hrest⟩ := List.forall_mem_cons.mp hes
    have hsame := perform_halted hs hreset hload
    exact hsame.trans (ih (hsame.fault ▸ hs) hrest)

/-- Settles O8, by induction on the events: none of the allowed ones writes the latch or the program state. -/
theorem haltLastsUntilResetOrLoad : Obligations.HaltLastsUntilResetOrLoad := by
  intro es s f hf hes
  have hs : s.fault ≠ none := by rw [hf]; exact Option.some_ne_none f
  obtain ⟨hfault, hv, hi, hpc, hstack, hfb, hmem⟩ := run_halted hs hes
  have hlast : (run es s).fault = some f := hfault.trans hf
  have hafter : afterStep (run es s) = run es s := afterStep_of_halted (hfault ▸ hs)
  exact ⟨hlast, stepStatus_eq_fault.mpr (hafter.symm ▸ hlast), hv, hi, hpc, hstack, hfb, hmem⟩

/-! ## The idle loop, and a word placed at PC -/

/-- Settles O55: the jump writes to PC the value that PC has. -/
theorem idleLoopStays : Obligations.IdleLoopStays := by
  rintro s ⟨nnn, hi, hpc⟩
  have htarget : zextAddr nnn = s.pc := BitVec.eq_of_toNat_eq ((zextAddr_toNat nnn).trans hpc.symm)
  have hexec : exec (.jp nnn) s = .next s := by rw [exec_jp, htarget]; rfl
  refine ⟨(step_of_executes hi).trans hexec, stepStatus_eq_continue_iff_executes.mpr ?_⟩
  exact ⟨_, s, hi, nofun, hexec, afterStep_of_executes hi hexec, hi.running⟩

/-- A word stored inside memory is read back (R52). -/
theorem Memory.readWord_writeWord {m : Memory} (h : m.wf = true) {addr : Nat} (w : Word) (hs : addr + 1 < 4096) :
    (m.writeWord addr w).readWord addr = w := by
  have hfits : addr + [hiByte w, loByte w].length ≤ 4096 := hs
  have hhi : (m.writeWord addr w).read addr = hiByte w :=
    Memory.read_writeBlock h [hiByte w, loByte w] hfits (k := 0) (by simp)
  have hlo : (m.writeWord addr w).read (addr + 1) = loByte w :=
    Memory.read_writeBlock h [hiByte w, loByte w] hfits (k := 1) (by simp)
  rw [Memory.readWord, hhi, hlo, wordOfBytes_hiByte_loByte]

theorem State.readyToFetch_mem (s : State) : s.readyToFetch.mem = s.mem := by
  unfold State.readyToFetch
  dsimp only
  split <;> rfl

theorem State.fetch_withFetchWord {s : State} (h : s.mem.wf = true) (op : Word) :
    (s.withFetchWord 16 op.toNat).fetch = some op := by
  have hop : BitVec.ofNat 16 (op.toNat % 2 ^ 16) = op := by
    rw [Nat.mod_eq_of_lt op.isLt, BitVec.ofNat_toNat, BitVec.setWidth_eq]
  have hpc : s.readyToFetch.pc.toNat + 1 < 4096 := of_decide_eq_true (State.readyToFetch_canFetch s).1
  rw [State.withFetchWord, hop, State.placeWord, State.fetch_eq_some]
  refine ⟨Nat.le_of_lt_succ hpc, Memory.readWord_writeWord ?_ op hpc⟩
  rw [State.readyToFetch_mem]
  exact h

/-- Settles O56: after the word is placed no fault is latched and the fetch reads the word. -/
theorem placedWordRuns : Obligations.PlacedWordRuns := fun s op _ hwf hdecode =>
  step_of_executes (Executes_iff.mpr ⟨s.withFetchWord_fault 16 op.toNat, op, State.fetch_withFetchWord hwf op, hdecode⟩)

end Sys2Proof.Machine
end

section
/-! Moves, logic, arithmetic and the random byte: what Vx and VF hold after each (R121 to R133). -/

namespace Sys2Proof.Machine

/-- What an instruction that writes Vx and advances has to be shown to answer. -/
theorem setReg_result {i : Instr} {s : State} {x : RegIdx} {b : Byte} (he : exec i s = .next (s.setReg x b).advance) :
    ∃ t, exec i s = .next t ∧ t.reg x = b ∧ t.pc = s.pc + 2 ∧ Frame (· = x) noPart s t :=
  ⟨_, he, State.reg_setReg_self s x b, rfl, frame_setReg_advance x b s⟩

/-- Settles O16: each is one write to Vx. -/
theorem loadAndMoveResult : Obligations.LoadAndMoveResult :=
  ⟨fun x kk s => setReg_result (exec_ldVxKk s x kk), fun x y s => setReg_result (exec_ldVxVy s x y)⟩

/-- Settles O18: the bits of a conjunction and of an exclusive or. -/
theorem andXorResult : Obligations.AndXorResult := by
  refine ⟨fun x y s => ?_, fun x y s => ?_⟩
  · obtain ⟨t, he, hx, hrest⟩ := setReg_result (exec_andVxVy s x y)
    exact ⟨t, he, fun k => hx ▸ BitVec.getLsbD_and, hrest⟩
  · obtain ⟨t, he, hx, hrest⟩ := setReg_result (exec_xorVxVy s x y)
    exact ⟨t, he, fun k => hx ▸ BitVec.getLsbD_xor, hrest⟩

/-- Settles O19: the bits of a disjunction. -/
theorem orResult : Obligations.OrResult := by
  intro x y s
  obtain ⟨t, he, hx, hrest⟩ := setReg_result (exec_orVxVy s x y)
  exact ⟨t, he, fun k => hx ▸ BitVec.getLsbD_or, hrest⟩

/-! ## The flag writers -/

/-- What an instruction that writes a result to Vx and a flag to VF, the flag last, has to be shown to answer. -/
theorem setRegFlag_result {i : Instr} {s : State} {x : RegIdx} {b : Byte} {f : Bool}
    (he : exec i s = .next (s.setRegFlag x b f).advance) :
    ∃ t, exec i s = .next t ∧ (x ≠ 15 → t.reg x = b) ∧ t.reg 15 = flagByte f ∧ t.pc = s.pc + 2 ∧
      Frame (fun r => r = x ∨ r = 15) noPart s t := by
  refine ⟨_, he, fun hx => ?_, ?_, rfl, frame_setRegFlag_advance x b f s⟩
  · rw [State.reg_advance, State.reg_setRegFlag, if_neg (show x ≠ vf from hx), if_pos rfl]
  · exact (State.reg_setRegFlag s x vf b f).trans (if_pos rfl)

theorem flagByte_decide (p : Prop) [Decidable p] : flagByte (decide p) = if p then 1 else 0 := by
  simp [flagByte]

theorem byte_sub_toNat (a b : Byte) : (a - b).toNat = (a.toNat + 256 - b.toNat) % 256 := by
  have := b.isLt
  rw [BitVec.toNat_sub]
  congr 1
  omega

theorem flagByte_shiftedOutLow_toNat (a : Byte) : (flagByte (shiftedOutLow a)).toNat = a.toNat % 2 := by
  have hbit : shiftedOutLow a = decide (a.toNat % 2 = 1) := by simp [shiftedOutLow, BitVec.getLsbD, Nat.testBit_zero]
  rw [hbit, flagByte_decide]
  split <;> simp <;> omega

theorem flagByte_shiftedOutHigh_toNat (a : Byte) : (flagByte (shiftedOutHigh a)).toNat = a.toNat / 128 := by
  have := a.isLt
  have hbit : shiftedOutHigh a = decide (a.toNat / 2 ^ 7 % 2 = 1) := Nat.testBit_eq_decide_div_mod_eq
  rw [hbit, flagByte_decide]
  split <;> simp <;> omega

/-- Settles O20: the carry is the comparison of the 9-bit sum with 255. -/
theorem addWithCarryResult : Obligations.AddWithCarryResult := by
  intro x y s
  obtain ⟨t, he, hx, hflag, hrest⟩ := setRegFlag_result (exec_addVxVy s x y)
  exact ⟨t, he, fun hne => by rw [hx hne, BitVec.toNat_add], hflag.trans (flagByte_decide _), hrest⟩

/-- Settles O21: the not-borrow is the comparison of the two operands. -/
theorem subtractResult : Obligations.SubtractResult := by
  refine ⟨fun x y s => ?_, fun x y s => ?_⟩
  · obtain ⟨t, he, hx, hflag, hrest⟩ := setRegFlag_result (exec_sub s x y)
    exact ⟨t, he, fun hne => by rw [hx hne, byte_sub_toNat], hflag.trans (flagByte_decide _), hrest⟩
  · obtain ⟨t, he, hx, hflag, hrest⟩ := setRegFlag_result (exec_subn s x y)
    exact ⟨t, he, fun hne => by rw [hx hne, byte_sub_toNat], hflag.trans (flagByte_decide _), hrest⟩

/-- Settles O22: a shift by one halves or doubles, and the flag is the bit that falls out. -/
theorem shiftResult : Obligations.ShiftResult := by
  refine ⟨fun x y s => ?_, fun x y s => ?_⟩
  · obtain ⟨t, he, hx, hflag, hrest⟩ := setRegFlag_result (exec_shr s x y)
    refine ⟨t, he, fun hne => ?_, by rw [hflag, flagByte_shiftedOutLow_toNat], hrest⟩
    rw [hx hne, BitVec.toNat_ushiftRight, Nat.shiftRight_eq_div_pow, pow_one]
  · obtain ⟨t, he, hx, hflag, hrest⟩ := setRegFlag_result (exec_shl s x y)
    refine ⟨t, he, fun hne => ?_, by rw [hflag, flagByte_shiftedOutHigh_toNat], hrest⟩
    rw [hx hne, BitVec.toNat_shiftLeft, Nat.shiftLeft_eq, pow_one]

/-! ## The random byte -/

/-- Settles O23: the draw is the supplied byte, or the free value, and uses it up. -/
theorem randomResult : Obligations.RandomResult := by
  refine ⟨fun x kk b rest s h => ?_, fun x kk s h => ?_⟩
  · obtain ⟨hbyte, hsupply, hcount⟩ := State.rndByte_supplied h
    exact ⟨_, exec_rnd s x kk, by rw [State.reg_advance, State.reg_setReg_self, hbyte], hsupply, hcount,
      congrArg (· + 2) s.takeRnd_pc, frame_takeRnd_setReg_advance x _ s⟩
  · obtain ⟨hbyte, hsupply, hcount⟩ := State.rndByte_free h
    exact ⟨_, exec_rnd s x kk, by rw [State.reg_advance, State.reg_setReg_self, hbyte], hsupply, hcount,
      congrArg (· + 2) s.takeRnd_pc, frame_takeRnd_setReg_advance x _ s⟩

end Sys2Proof.Machine
end

section
/-! Control flow: SYS, jumps, calls, returns and the skips (R100 to R109). -/

namespace Sys2Proof.Machine

/-- Settles O36: the arm of SYS under the policy `nop` is the advance alone. -/
theorem sysIsNoOperation : Obligations.SysIsNoOperation := fun nnn s =>
  ⟨_, exec_sys s nnn, rfl, onlyPc_jump s _⟩

/-- Settles O37: both are jumps, and neither target wraps. -/
theorem jumpTargets : Obligations.JumpTargets :=
  ⟨fun nnn s => ⟨_, exec_jp s nnn, zextAddr_toNat nnn, onlyPc_jump s _⟩,
    fun nnn s => ⟨_, exec_jpV0 s nnn, jpV0_target_toNat (s.reg 0) nnn, onlyPc_jump s _⟩⟩

/-- Settles O38: a call with room writes the stack and PC; a full stack is a fault. -/
theorem callResult : Obligations.CallResult := fun nnn s =>
  ⟨fun hroom => ⟨_, exec_call_room nnn hroom, zextAddr_toNat nnn, rfl, frame_stack_pc _ _ s⟩,
    fun hfull => exec_call_full nnn hfull.ge⟩

/-- Settles O39: a return writes the stack and PC; an empty stack is a fault. -/
theorem returnResult : Obligations.ReturnResult := fun s =>
  ⟨fun top rest h => ⟨_, exec_ret_top h, rfl, rfl, frame_stack_pc rest top s⟩, exec_ret_empty⟩

/-- Settles O40: the return pops what the call pushed, so the two together are a jump to the pushed address. -/
theorem returnResumesAfterCall : Obligations.ReturnResumesAfterCall := fun nnn s hroom =>
  ⟨_, _, exec_call_room nnn hroom, exec_ret_top (rest := s.stack) rfl, rfl, onlyPc_jump s (s.pc + 2)⟩

/-- Settles O43: a skip on the comparison of Vx with Vy, whatever the low nibble. -/
theorem skipRegistersDifferResult : Obligations.SkipRegistersDifferResult := fun x y n s =>
  ⟨_, exec_sneVxVy s x y n, s.skipIf_bne_pc _ _, onlyPc_skipIf s _⟩

/-- A conditional skip tests a condition of the registers and the key latch: one for every contents of memory. -/
theorem exec_of_isSkip {i : Instr} (h : IsSkip i) (s : State) :
    ∃ c, ∀ m : Memory, exec i (s.setMem m) = .next ((s.setMem m).skipIf c) := by
  obtain ⟨x, kk, rfl⟩ | ⟨x, kk, rfl⟩ | ⟨x, y, n, rfl⟩ | ⟨x, y, n, rfl⟩ | ⟨x, rfl⟩ | ⟨x, rfl⟩ := h
  · exact ⟨s.reg x == kk, fun m => exec_seVxKk x kk (s.setMem m)⟩
  · exact ⟨s.reg x != kk, fun m => exec_sneVxKk x kk (s.setMem m)⟩
  · exact ⟨s.reg x == s.reg y, fun m => exec_seVxVy x y n (s.setMem m)⟩
  · exact ⟨s.reg x != s.reg y, fun m => exec_sneVxVy (s.setMem m) x y n⟩
  · exact ⟨s.keyIs (s.reg x), fun m => exec_skp (s.setMem m) x⟩
  · exact ⟨!s.keyIs (s.reg x), fun m => exec_sknp (s.setMem m) x⟩

theorem State.skipIf_setMem (s : State) (m : Memory) (c : Bool) : (s.setMem m).skipIf c = (s.skipIf c).setMem m := by
  cases c <;> rfl

/-- Settles O44: the condition is the same for every memory, and either end is a jump. -/
theorem skipIgnoresSkippedWord : Obligations.SkipIgnoresSkippedWord := by
  intro i s hskip
  obtain ⟨c, hc⟩ := exec_of_isSkip hskip s
  refine ⟨s.skipIf c, hc s.mem, ?_, onlyPc_skipIf s c, fun m => ?_⟩
  · cases c with
    | true => exact .inl rfl
    | false => exact .inr rfl
  · exact (hc m).trans (congrArg _ (s.skipIf_setMem m c))

end Sys2Proof.Machine
end

section
/-! Keys and timers (R160 to R166, R173, R197). -/

namespace Sys2Proof.Machine

theorem State.keyIs_of_key {s : State} {code : Byte} (h : s.key = some code) (b : Byte) :
    s.keyIs b = decide (code.toNat = b.toNat) := by
  rw [State.keyIs, h, Bool.eq_iff_iff]
  simp [BitVec.toNat_inj]

theorem State.keyIs_of_no_key {s : State} (h : s.key = none) (b : Byte) : s.keyIs b = false := by
  simp [State.keyIs, h]

/-- Settles O45: the two are skips on the key test and on its negation. -/
theorem keySkipResult : Obligations.KeySkipResult := by
  intro x s
  refine ⟨_, _, exec_skp s x, exec_sknp s x, onlyPc_skipIf s _, onlyPc_skipIf s _, fun code hkey heq => ?_,
    fun code hkey hne => ?_, fun hnone => ?_⟩
  · simp [State.keyIs_of_key hkey, heq]
  · simp [State.keyIs_of_key hkey, hne]
  · simp [State.keyIs_of_no_key hnone]

/-- Settles O46: with a key the code is written to Vx; without one the arm answers the state as it is. -/
theorem keyWaitResult : Obligations.KeyWaitResult := fun x _ =>
  ⟨fun _ hkey => setReg_result (exec_ldVxK_key x hkey), exec_ldVxK_wait x⟩

/-- What a step executes is decided by the fault latch, PC and memory. -/
theorem Executes.congr {s t : State} {i : Instr} (h : Executes s i) (hfault : t.fault = s.fault) (hpc : t.pc = s.pc)
    (hmem : t.mem = s.mem) : Executes t i :=
  ⟨hfault.trans h.running, hpc ▸ h.inMemory, by rw [hpc, hmem]; exact h.decodes⟩

/-- Settles O47: a tick and a key setting leave the instruction at PC in place, and the key alone ends the wait. -/
theorem waitEndsWithKey : Obligations.WaitEndsWithKey := by
  intro x s hi hkey
  have hwaiting : ∀ {t : State}, Executes t (.ldVxK x) → t.key = none → stepStatus t = .waitingForKey :=
    fun ht hnone => stepStatus_eq_waiting_iff_executes.mpr ⟨x, ht, hnone⟩
  refine ⟨(step_of_executes hi).trans (exec_ldVxK_wait x hkey), hwaiting hi hkey,
    hwaiting (hi.congr rfl rfl rfl) hkey, fun code => ?_⟩
  have hpressed : Executes (setKey (some code) s) (.ldVxK x) := hi.congr rfl rfl rfl
  have hexec := exec_ldVxK_key x (s := setKey (some code) s) (code := code) rfl
  refine ⟨_, (step_of_executes hpressed).trans hexec, stepStatus_eq_continue_iff_executes.mpr ?_,
    State.reg_setReg_self _ x code, rfl, rfl, frame_setReg_advance x code _⟩
  exact ⟨_, _, hpressed, nofun, hexec, afterStep_of_executes hpressed hexec, hi.running⟩

/-- Settles O49: a tick is two writes, to DT and to ST, each of its timer ticked down. -/
theorem tickResult : Obligations.TickResult := fun s =>
  ⟨tickDown_toNat s.dt, tickDown_toNat s.st, rfl,
    ((frame_setDt _ s).mono (fun _ => id) (fun _ => .inl)).trans
      ((frame_setSt _ _).mono (fun _ => id) (fun _ => .inr))⟩

theorem iterate_tickTimers_dt_toNat (k : Nat) (s : State) : (tickTimers^[k] s).dt.toNat = s.dt.toNat - k := by
  induction k with
  | zero => rfl
  | succ k ih =>
    rw [Function.iterate_succ_apply', (tickResult _).1, ih]
    omega

/-- Settles O50, by induction on the number of ticks: DT starts at Vx and each tick takes one off. -/
theorem delayCountsTicks : Obligations.DelayCountsTicks := by
  intro x y k s
  refine ⟨_, _, exec_ldDtVx x s, exec_ldVxDt y _, ?_⟩
  rw [State.reg_advance, State.reg_setReg_self, iterate_tickTimers_dt_toNat]
  rfl

end Sys2Proof.Machine
end

section
/-! The host's reset and load (R34, R35, R171, R172). -/

namespace Sys2Proof.Machine

theorem State.reg_reset (r : RegIdx) : State.reset.reg r = 0 := by
  simp [State.reg, State.reset]

/-- Settles O51: the core's state after the host's reset is that of `State.reset`. -/
theorem resetState : Obligations.ResetState := fun _ =>
  ⟨State.reg_reset, rfl, rfl, rfl, rfl, rfl, Framebuffer.pixel_blank, rfl, Memory.read_nil, rfl⟩

theorem frame_clearFault (s : State) : Frame noReg (· = .fault) s s.clearFault := by
  refine frame_of_part rfl fun q hq => ?_
  have hsame := q.same_refl s
  cases q with
  | fault => exact absurd rfl hq
  | index | stack | delay | sound | screen | memory | key | random => exact hsame

/-- A load that fits is a write to memory, one to PC, and the latch cleared. -/
theorem frame_loaded (ws : List Word) (s : State) : Frame noReg (fun p => p = .memory ∨ p = .fault) s (loaded ws s) :=
  (((frame_setMem _ s).mono (fun _ => id) (fun _ => .inl)).trans
    ((onlyPc_jump _ _).mono (fun _ => id) (fun _ => False.elim))).trans
    ((frame_clearFault _).mono (fun _ => id) (fun _ => .inr))

/-- Settles O53: the load is one that fits. -/
theorem loadKeepsTheRest : Obligations.LoadKeepsTheRest := by
  intro ws s hfits
  rw [hostLoad_of_fits hfits]
  exact ⟨rfl, rfl, frame_loaded ws s⟩

end Sys2Proof.Machine
end

section
/-! The index register and the memory blocks at I (R58, R62, R141 to R145). -/

namespace Sys2Proof.Machine

/-- Settles O25: the sum of two words is taken modulo 65536. -/
theorem addIndexWraps : Obligations.AddIndexWraps := fun x s =>
  ⟨_, exec_addIVx s x, by rw [State.advance_i, State.setI_i, BitVec.toNat_add, zextByte_toNat], rfl,
    frame_setI_advance _ s⟩

theorem State.blockFits_of_le {s : State} {len : Nat} (h : len = 0 ∨ s.i.toNat + len - 1 ≤ 4095) :
    s.blockFits len = true := (s.blockFits_iff len).mpr h

theorem State.blockFits_of_lt {s : State} {len : Nat} (hlen : 0 < len) (h : 4095 < s.i.toNat + len - 1) :
    s.blockFits len = false := by
  rw [Bool.eq_false_iff, ne_eq, s.blockFits_iff]
  omega

/-- What an instruction that stores the bytes `bs` at I has to be shown to answer, where they fit (R55). -/
theorem store_result {i : Instr} {s : State} {bs : List Byte} (hwf : s.mem.wf = true)
    (hfits : s.i.toNat + bs.length ≤ 4096)
    (he : exec i s = .next (s.setMem (s.mem.writeBlock s.i.toNat bs)).advance) :
    ∃ t, exec i s = .next t ∧ (∀ k (hk : k < bs.length), Memory.read t.mem (s.i.toNat + k) = bs[k]) ∧
      (∀ a, a < s.i.toNat ∨ s.i.toNat + bs.length ≤ a → Memory.read t.mem a = Memory.read s.mem a) ∧
      t.pc = s.pc + 2 ∧ Frame noReg (· = .memory) s t :=
  ⟨_, he, fun _ hk => Memory.read_writeBlock hwf bs hfits hk, fun _ ha => Memory.read_writeBlock_other s.mem bs ha, rfl,
    (frame_setMem _ s).advance⟩

/-- Settles O26: the block stored is the three digits, in storing order. -/
theorem bcdStoreResult : Obligations.BcdStoreResult := by
  intro x s hwf hfits
  have hexec := (exec_ldBVx x s).trans (withBlock_of_fits (State.blockFits_of_le (.inr hfits)) _)
  obtain ⟨t, he, hbytes, hothers, hrest⟩ := store_result hwf (bs := bcdDigits (s.reg x)) (Nat.succ_le_succ hfits) hexec
  have hhundreds : t.mem.read s.i.toNat = s.reg x / 100 := hbytes 0 (by simp [bcdDigits])
  have htens : t.mem.read (s.i.toNat + 1) = s.reg x / 10 % 10 := hbytes 1 (by simp [bcdDigits])
  have hones : t.mem.read (s.i.toNat + 2) = s.reg x % 10 := hbytes 2 (by simp [bcdDigits])
  refine ⟨t, he, ?_, ?_, ?_, hothers, hrest⟩
  · rw [hhundreds, BitVec.toNat_udiv]; rfl
  · rw [htens, BitVec.toNat_umod, BitVec.toNat_udiv]; rfl
  · rw [hones, BitVec.toNat_umod]; rfl

theorem storeRegisters_result {x : RegIdx} {s : State} (hwf : s.mem.wf = true) (hfits : s.i.toNat + x.val ≤ 4095) :
    ∃ t, exec (.ldMemVx x) s = .next t ∧
      (∀ k : RegIdx, k ≤ x → Memory.read t.mem (s.i.toNat + k.val) = s.reg k) ∧
      (∀ a, a < s.i.toNat ∨ s.i.toNat + x.val < a → Memory.read t.mem a = Memory.read s.mem a) ∧
      t.pc = s.pc + 2 ∧ Frame noReg (· = .memory) s t := by
  have hexec := (exec_ldMemVx x s).trans (withBlock_of_fits (State.blockFits_of_le (.inr hfits)) _)
  have hlen : (s.regBlock (x.val + 1)).length = x.val + 1 := s.regBlock_length x.isLt
  obtain ⟨t, he, hbytes, hothers, hrest⟩ := store_result hwf (bs := s.regBlock (x.val + 1)) (by omega) hexec
  refine ⟨t, he, fun k hk => ?_, fun a ha => hothers a (by omega), hrest⟩
  have hk' : k.val < (s.regBlock (x.val + 1)).length := by rw [hlen]; exact Nat.lt_succ_of_le hk
  rw [hbytes k.val hk', s.regBlock_getElem hk' k.isLt]

/-- Settles O27: the block stored is V0 to Vx. -/
theorem storeRegistersResult : Obligations.StoreRegistersResult := fun _ _ => storeRegisters_result

theorem loadRegisters_result {x : RegIdx} {s : State} (hfits : s.i.toNat + x.val ≤ 4095) :
    ∃ t, exec (.ldVxMem x) s = .next t ∧
      (∀ k : RegIdx, k ≤ x → t.reg k = Memory.read s.mem (s.i.toNat + k.val)) ∧
      t.pc = s.pc + 2 ∧ Frame (· ≤ x) noPart s t := by
  have hexec := (exec_ldVxMem x s).trans (withBlock_of_fits (State.blockFits_of_le (.inr hfits)) _)
  refine ⟨_, hexec, fun k hk => ?_, rfl, (frame_loadRegs _ _ x s).advance⟩
  exact (loadRegs_getElem s.mem s.i.toNat (x.val + 1) s.v k.val k.isLt).trans (if_pos (Nat.lt_succ_of_le hk))

/-- Settles O28: the registers up to x are loaded from the block, and that is the only write beside PC. -/
theorem loadRegistersResult : Obligations.LoadRegistersResult := fun _ _ => loadRegisters_result

/-- Settles O29: what the load reads at I + k is what the store left there, Vk. -/
theorem storeThenLoadRestores : Obligations.StoreThenLoadRestores := by
  intro x s hwf hfits
  obtain ⟨t, he, hstored, -, -, hframe⟩ := storeRegisters_result hwf hfits
  have hti : t.i = s.i := hframe.2 .index nofun
  refine ⟨t, he, fun u hui humem => ?_⟩
  have hi : u.i = s.i := hui.trans hti
  obtain ⟨w, hload, hloaded, -⟩ := loadRegisters_result (x := x) (s := u) (hi ▸ hfits)
  exact ⟨w, hload, fun r hr => by rw [hloaded r hr, humem, hi, hstored r hr]⟩

/-- Settles O30: each of the four tests its block, of 3, x + 1 or n bytes, before any effect. -/
theorem blockOutOfRangeFaults : Obligations.BlockOutOfRangeFaults := by
  intro s
  have hout : ∀ {len : Nat} {effect : State → State}, 0 < len → 4095 < s.i.toNat + len - 1 →
      withBlock len s effect = .next { s with fault := some (.dataOutOfBounds s.firstOutOfRange) } :=
    fun hlen h => withBlock_of_not_fits (State.blockFits_of_lt hlen h) _
  exact ⟨s.firstOutOfRange, s.firstOutOfRange_toNat, fun x h => (exec_ldBVx x s).trans (hout (by decide) h),
    fun x h => (exec_ldMemVx x s).trans (hout (Nat.succ_pos _) h),
    fun x h => (exec_ldVxMem x s).trans (hout (Nat.succ_pos _) h),
    fun x y n hn h => (exec_drw x y n s).trans (hout hn h)⟩

/-- Settles O31: the fetch reads the two bytes at I + k and I + k + 1, where the store left Vk and Vk+1. -/
theorem storeSeenByNextFetch : Obligations.StoreSeenByNextFetch := by
  intro x k k' s hwf hfits hsucc hk' hpc
  obtain ⟨t, he, hstored, -, hadvance, -⟩ := storeRegisters_result hwf hfits
  have hle : k'.val ≤ x.val := hk'
  have hnext : t.pc.toNat = s.i.toNat + k.val := by rw [hadvance, pc_add_two_toNat (by omega), hpc]
  have hhi : t.mem.read t.pc.toNat = s.reg k := by rw [hnext]; exact hstored k (by rw [Fin.le_def]; omega)
  have hlo : t.mem.read (t.pc.toNat + 1) = s.reg k' := by
    rw [hnext, Nat.add_assoc, ← hsucc]; exact hstored k' hk'
  refine ⟨t, _, he, State.fetch_eq_some.mpr ⟨by omega, rfl⟩, ?_⟩
  rw [Memory.readWord_toNat, hhi, hlo]

end Sys2Proof.Machine
end

section
/-! The random input reaches the machine through `Cxkk` alone (R97, R133). -/

namespace Sys2Proof.Machine

/-- The state with another random input. -/
def State.withRandom (s : State) (q : List Byte) (n : Nat) : State := { s with rndSupply := q, rndCount := n }

/-- The instruction does the same with another random input. -/
def IgnoresRandom (i : Instr) (s : State) : Prop :=
  ∃ t, exec i s = .next t ∧ ∀ q n, exec i (s.withRandom q n) = .next (t.withRandom q n)

theorem State.skipIf_withRandom (s : State) (q : List Byte) (n : Nat) (c : Bool) :
    (s.withRandom q n).skipIf c = (s.skipIf c).withRandom q n := by
  cases c <;> rfl

theorem ignoresRandom_skip {i : Instr} {s : State} {c : Bool} (he : exec i s = .next (s.skipIf c))
    (hr : ∀ q n, exec i (s.withRandom q n) = .next ((s.withRandom q n).skipIf c)) : IgnoresRandom i s :=
  ⟨_, he, fun q n => (hr q n).trans (congrArg _ (s.skipIf_withRandom q n c))⟩

/-- A block instruction whose effect does not look at the random input does not either. -/
theorem ignoresRandom_withBlock {i : Instr} {s : State} {len : Nat} {effect : State → State}
    (he : exec i s = withBlock len s effect)
    (hr : ∀ q n, exec i (s.withRandom q n) = withBlock len (s.withRandom q n) effect)
    (heffect : ∀ q n, effect (s.withRandom q n) = (effect s).withRandom q n) : IgnoresRandom i s := by
  cases hfits : s.blockFits len with
  | true =>
    refine ⟨_, he.trans (withBlock_of_fits hfits _), fun q n => ?_⟩
    rw [hr, withBlock_of_fits (s := s.withRandom q n) hfits, heffect]
  | false =>
    refine ⟨_, he.trans (withBlock_of_not_fits hfits _), fun q n => ?_⟩
    rw [hr, withBlock_of_not_fits (s := s.withRandom q n) hfits]
    rfl

theorem ignoresRandom {i : Instr} (hi : ∀ x kk, i ≠ .rnd x kk) (s : State) : IgnoresRandom i s := by
  cases i with
  | rnd x kk => exact absurd rfl (hi x kk)
  | ret =>
    cases h : s.stack with
    | nil => exact ⟨_, exec_ret_empty h, fun _ _ => exec_ret_empty h⟩
    | cons top rest => exact ⟨_, exec_ret_top h, fun _ _ => exec_ret_top h⟩
  | call nnn =>
    by_cases h : s.stack.length < 16
    · exact ⟨_, exec_call_room nnn h, fun _ _ => exec_call_room nnn h⟩
    · exact ⟨_, exec_call_full nnn (Nat.le_of_not_lt h), fun _ _ => exec_call_full nnn (Nat.le_of_not_lt h)⟩
  | ldVxK x =>
    cases h : s.key with
    | none => exact ⟨_, exec_ldVxK_wait x h, fun _ _ => exec_ldVxK_wait x h⟩
    | some code => exact ⟨_, exec_ldVxK_key x h, fun _ _ => exec_ldVxK_key x h⟩
  | seVxKk | sneVxKk | seVxVy | sneVxVy | skp | sknp => exact ignoresRandom_skip rfl fun _ _ => rfl
  | drw x y n => exact ignoresRandom_withBlock (exec_drw x y n s) (fun _ _ => exec_drw x y n _) fun _ _ => rfl
  | ldBVx x => exact ignoresRandom_withBlock (exec_ldBVx x s) (fun _ _ => exec_ldBVx x _) fun _ _ => rfl
  | ldMemVx x => exact ignoresRandom_withBlock (exec_ldMemVx x s) (fun _ _ => exec_ldMemVx x _) fun _ _ => rfl
  | ldVxMem x => exact ignoresRandom_withBlock (exec_ldVxMem x s) (fun _ _ => exec_ldVxMem x _) fun _ _ => rfl
  | cls | sys | jp | ldVxKk | addVxKk | ldVxVy | orVxVy | andVxVy | xorVxVy | addVxVy | sub | shr | subn | shl | ldINnn
  | jpV0 | ldVxDt | ldDtVx | ldStVx | addIVx => exact ⟨_, rfl, fun _ _ => rfl⟩

/-- Settles O9: no other meaning reads or writes the two fields of the random input. -/
theorem randomOnlyThroughRnd : Obligations.RandomOnlyThroughRnd := by
  intro i s q n hi
  obtain ⟨t, he, hr⟩ := ignoresRandom hi s
  exact ⟨t, he, hr q n⟩

end Sys2Proof.Machine
end

section
/-! Drawing: the pixels a blit inverts and the collision it finds (R151, R152), and the flat read port (R175). -/

namespace Sys2Proof.Machine

/-! ## A framebuffer with some pixels inverted -/

/-- A set of pixels, by row and column. -/
abbrev Pixels := Fin Config.fbHeight → Fin Config.fbWidth → Prop

/-- The blit so far: the pixels of `p` are those of `fb` inverted, all others are those of `fb`, and a collision is
remembered exactly when a pixel of `p` was set. -/
structure Inverts (fb : Framebuffer) (p : Pixels) (acc : Framebuffer × Bool) : Prop where
  inside : ∀ r c, p r c → Framebuffer.pixel acc.1 r c = !Framebuffer.pixel fb r c
  outside : ∀ r c, ¬ p r c → Framebuffer.pixel acc.1 r c = Framebuffer.pixel fb r c
  collides : acc.2 = true ↔ ∃ r c, p r c ∧ Framebuffer.pixel fb r c = true

theorem Inverts.congr {fb : Framebuffer} {p q : Pixels} {acc : Framebuffer × Bool} (h : Inverts fb p acc)
    (hpq : ∀ r c, p r c ↔ q r c) : Inverts fb q acc := by
  have : p = q := funext₂ fun r c => propext (hpq r c)
  rwa [← this]

theorem inverts_none (fb : Framebuffer) : Inverts fb (fun _ _ => False) (fb, false) :=
  ⟨fun _ _ => False.elim, fun _ _ _ => rfl, by simp⟩

/-- Plotting a bit at a pixel not drawn yet adds that pixel where the bit is 1 and nothing where it is 0. -/
theorem Inverts.plot {fb : Framebuffer} {p : Pixels} {acc : Framebuffer × Bool} (h : Inverts fb p acc)
    {r : Fin Config.fbHeight} {c : Fin Config.fbWidth} (hnew : ¬ p r c) (bit : Bool) :
    Inverts fb (fun r' c' => p r' c' ∨ (r' = r ∧ c' = c ∧ bit = true)) (plot r c bit acc) := by
  have hold := h.outside r c hnew
  refine ⟨fun r' c' hp => ?_, fun r' c' hp => ?_, ?_⟩
  · rw [plot_pixel]
    obtain hp | ⟨rfl, rfl, rfl⟩ := hp
    · rw [if_neg (by rintro ⟨rfl, rfl⟩; exact hnew hp), h.inside r' c' hp]
    · rw [if_pos ⟨rfl, rfl⟩, hold, Bool.xor_true]
  · rw [plot_pixel]
    split
    · next e =>
      obtain ⟨rfl, rfl⟩ := e
      have hbit : bit = false := by simpa [hnew] using hp
      rw [hold, hbit, Bool.xor_false]
    · exact h.outside r' c' fun hp' => hp (.inl hp')
  · rw [plot_collision, hold, Bool.or_eq_true, Bool.and_eq_true, h.collides]
    constructor
    · rintro (⟨r', c', hp, hset⟩ | ⟨hset, hbit⟩)
      · exact ⟨r', c', .inl hp, hset⟩
      · exact ⟨r, c, .inr ⟨rfl, rfl, hbit⟩, hset⟩
    · rintro ⟨r', c', hp | ⟨rfl, rfl, hbit⟩, hset⟩
      · exact .inl ⟨r', c', hp, hset⟩
      · exact .inr ⟨hset, hbit⟩

/-! ## One row, and all rows -/

/-- The first `n` bits of a sprite byte, from column `x`, have a 1 bit at column `c` (R151). -/
def RowOver (x : Nat) (row : Byte) (n : Nat) (c : Fin Config.fbWidth) : Prop :=
  ∃ b, b < n ∧ Fin.ofNat Config.fbWidth (x + b) = c ∧ spriteBit row b = true

theorem rowOver_succ {x n : Nat} {row : Byte} {c : Fin Config.fbWidth} :
    RowOver x row (n + 1) c ↔
      RowOver x row n c ∨ (c = Fin.ofNat Config.fbWidth (x + n) ∧ spriteBit row n = true) := by
  simp only [RowOver, Nat.lt_succ_iff_lt_or_eq, or_and_right, exists_or, exists_eq_left, eq_comm (a := c)]

/-- Two of the eight columns of a row are never the same one, since a row has 64. -/
theorem column_inj {x a b : Nat} (hab : a < b) (hb : b < 64) :
    Fin.ofNat Config.fbWidth (x + a) ≠ Fin.ofNat Config.fbWidth (x + b) := by
  intro h
  have : (x + a) % 64 = (x + b) % 64 := congrArg Fin.val h
  omega

/-- The inner loop of R151 on a row where nothing is drawn yet. -/
theorem Inverts.drawRow {fb : Framebuffer} {p : Pixels} {acc : Framebuffer × Bool} (h : Inverts fb p acc)
    {r : Fin Config.fbHeight} (hnew : ∀ c, ¬ p r c) (x : Nat) (row : Byte) :
    Inverts fb (fun r' c' => p r' c' ∨ (r' = r ∧ RowOver x row 8 c')) (drawRow x r row acc) := by
  have hfirst_bits : ∀ n ≤ 8, Inverts fb (fun r' c' => p r' c' ∨ (r' = r ∧ RowOver x row n c'))
      ((List.range n).foldl (fun acc b => Machine.plot r (Fin.ofNat Config.fbWidth (x + b)) (spriteBit row b) acc)
        acc) := by
    intro n hn
    induction n with
    | zero => exact h.congr fun r' c' => by simp [RowOver]
    | succ n ih =>
      rw [List.range_succ, List.foldl_append]
      have hfree : ¬ (p r (Fin.ofNat Config.fbWidth (x + n)) ∨
          (r = r ∧ RowOver x row n (Fin.ofNat Config.fbWidth (x + n)))) := by
        rintro (hp | ⟨-, b, hb, hcol, -⟩)
        · exact hnew _ hp
        · exact column_inj hb (by omega) hcol
      refine ((ih (by omega)).plot hfree (spriteBit row n)).congr fun r' c' => ?_
      rw [rowOver_succ, and_or_left, or_assoc]
  exact hfirst_bits 8 le_rfl

/-- The rows of a sprite, the first at row `y + k`, have a 1 bit over a pixel (R151). -/
def RowsOver (x y k : Nat) (rows : List Byte) : Pixels := fun r c =>
  ∃ (j : Nat) (row : Byte), rows[j]? = some row ∧ r = Fin.ofNat Config.fbHeight (y + (k + j)) ∧ RowOver x row 8 c

theorem rowsOver_cons {x y k : Nat} {row : Byte} {rows : List Byte} {r : Fin Config.fbHeight} {c : Fin Config.fbWidth} :
    RowsOver x y k (row :: rows) r c ↔
      (r = Fin.ofNat Config.fbHeight (y + k) ∧ RowOver x row 8 c) ∨ RowsOver x y (k + 1) rows r c := by
  constructor
  · rintro ⟨j, b, hj, hr, hc⟩
    cases j with
    | zero => cases hj; exact .inl ⟨hr, hc⟩
    | succ j => exact .inr ⟨j, b, hj, by rw [hr]; congr 2; omega, hc⟩
  · rintro (⟨hr, hc⟩ | ⟨j, b, hj, hr, hc⟩)
    · exact ⟨0, row, rfl, hr, hc⟩
    · exact ⟨j + 1, b, hj, by rw [hr]; congr 2; omega, hc⟩

theorem row_inj {y a b : Nat} (hab : a < b) (hb : b < a + 32) :
    Fin.ofNat Config.fbHeight (y + a) ≠ Fin.ofNat Config.fbHeight (y + b) := by
  intro h
  have : (y + a) % 32 = (y + b) % 32 := congrArg Fin.val h
  omega

/-- The outer loop of R151 over at most 32 rows, on which nothing is drawn yet. -/
theorem Inverts.drawRows {fb : Framebuffer} {p : Pixels} {acc : Framebuffer × Bool} (h : Inverts fb p acc)
    {x y k : Nat} {rows : List Byte} (hlen : rows.length ≤ 32)
    (hnew : ∀ j < rows.length, ∀ c, ¬ p (Fin.ofNat Config.fbHeight (y + (k + j))) c) :
    Inverts fb (fun r c => p r c ∨ RowsOver x y k rows r c) (drawRows x y k rows acc) := by
  induction rows generalizing p acc k with
  | nil => exact h.congr fun r c => by simp [RowsOver]
  | cons row rows ih =>
    rw [List.length_cons] at hlen hnew
    have hfirst := h.drawRow (hnew 0 (Nat.succ_pos _)) x row
    refine (ih hfirst (k := k + 1) (by omega) fun j hj c => ?_).congr fun r c => ?_
    · rintro (hp | ⟨hrow, -⟩)
      · exact hnew (j + 1) (by omega) c (by rwa [Nat.add_assoc, Nat.add_comm 1 j] at hp)
      · exact row_inj (a := k + 0) (b := k + 1 + j) (by omega) (by omega) hrow.symm
    · rw [rowsOver_cons, or_assoc]
      rfl

/-! ## The sprite of `Dxyn` -/

theorem State.rowsOver_sprite {s : State} {x y : RegIdx} {n : RowCount} {r : Fin Config.fbHeight}
    {c : Fin Config.fbWidth} :
    RowsOver (s.startX x) (s.startY y) 0 (s.mem.readBlock (s.blockAddr 0) n.val) r c ↔
      SpriteOver s x y n r.val c.val := by
  constructor
  · rintro ⟨k, row, hrow, rfl, b, hb, rfl, hbit⟩
    obtain ⟨hk, rfl⟩ := List.getElem?_eq_some_iff.mp hrow
    rw [Memory.readBlock_getElem] at hbit
    rw [Memory.readBlock_length] at hk
    exact ⟨k, b, hk, hb, by rw [Nat.zero_add]; rfl, rfl, hbit⟩
  · rintro ⟨k, b, hk, hb, hr, hc, hbit⟩
    refine ⟨k, s.mem.read (s.blockAddr 0 + k), ?_, Fin.ext ?_, b, hb, Fin.ext hc, hbit⟩
    · rw [List.getElem?_eq_some_iff]
      exact ⟨by rwa [Memory.readBlock_length], Memory.readBlock_getElem ..⟩
    · rw [Nat.zero_add]; exact hr.symm

/-- What `Dxyn` draws inverts exactly the pixels under a 1 bit of the sprite. -/
theorem State.inverts_drawn (s : State) (x y : RegIdx) (n : RowCount) :
    Inverts s.fb (fun r c => SpriteOver s x y n r.val c.val) (s.drawn x y n.val) := by
  have hlen : (s.mem.readBlock (s.blockAddr 0) n.val).length ≤ 32 := by rw [Memory.readBlock_length]; omega
  exact ((inverts_none s.fb).drawRows hlen fun _ _ _ => id).congr fun r c => by rw [false_or, s.rowsOver_sprite]

/-- Settles O33: the blit inverts the pixels under the sprite, and VF is whether one of them was set. -/
theorem drawXorsSprite : Obligations.DrawXorsSprite := by
  intro x y n s hfits
  obtain ⟨hinside, houtside, hcollides⟩ := s.inverts_drawn x y n
  have hexec := (exec_drw x y n s).trans (withBlock_of_fits (State.blockFits_of_le hfits) _)
  have hvf : (((s.setFb (s.drawn x y n.val).1).setFlag (s.drawn x y n.val).2).advance).reg 15 =
      flagByte (s.drawn x y n.val).2 := State.reg_setReg_self _ vf _
  refine ⟨_, hexec, hinside, houtside, fun hset => ?_, fun hclear => ?_, rfl, frame_setFb_setFlag_advance _ _ s⟩
  · rw [hvf, hcollides.mpr hset]; rfl
  · have hno : (s.drawn x y n.val).2 = false := by
      rw [Bool.eq_false_iff, ne_eq, hcollides]
      rintro ⟨r, c, hover, hset⟩
      exact Bool.false_ne_true ((hclear r c hover).symm.trans hset)
    rw [hvf, hno]; rfl

/-- The sprite of an instruction is given by its two coordinates, I and memory. -/
theorem spriteOver_congr {s t : State} {x y : RegIdx} (hx : t.reg x = s.reg x) (hy : t.reg y = s.reg y) (hi : t.i = s.i)
    (hmem : ∀ a, t.mem.read a = s.mem.read a) (n : RowCount) (r c : Nat) :
    SpriteOver t x y n r c ↔ SpriteOver s x y n r c := by
  simp only [SpriteOver, hx, hy, hi, hmem]

/-- Settles O34: the second draw has the first one's sprite, and inverts its pixels back. -/
theorem drawTwiceRestores : Obligations.DrawTwiceRestores := by
  intro x y n s hx hy hfits
  obtain ⟨t, het, hinside, houtside, -, -, -, hframe⟩ := drawXorsSprite x y n s hfits
  have hi : t.i = s.i := hframe.2 .index nofun
  have hsprite := spriteOver_congr (hframe.1 x hx) (hframe.1 y hy) hi (hframe.2 .memory nofun) n
  obtain ⟨u, heu, hinside', houtside', hset, hclear, -⟩ := drawXorsSprite x y n t (hi ▸ hfits)
  simp only [hsprite] at hinside' houtside' hset hclear
  refine ⟨t, u, het, heu, fun r c => ?_, fun ⟨r, c, hover, hpixel⟩ => hset ⟨r, c, hover, ?_⟩,
    fun hall => hclear fun r c hover => ?_⟩
  · by_cases hover : SpriteOver s x y n r.val c.val
    · rw [hinside' r c hover, hinside r c hover, Bool.not_not]
    · rw [houtside' r c hover, houtside r c hover]
  · rw [hinside r c hover, hpixel]; rfl
  · rw [hinside r c hover, hall r c hover]; rfl

/-- Settles O35: dividing the flat index by 64 gives back the row, and the rest is the column. -/
theorem flatReadIndex : Obligations.FlatReadIndex := by
  intro s r c k hk
  have hrow : Fin.ofNat Config.fbHeight (k.val / Config.fbWidth) = r := Fin.ext (show k.val / 64 % 32 = r.val by omega)
  have hcol : Fin.ofNat Config.fbWidth (k.val % Config.fbWidth) = c := Fin.ext (show k.val % 64 % 64 = c.val by omega)
  rw [fbFlat, hrow, hcol]

end Sys2Proof.Machine
end
